-- ==== Sys2Proof/Word.lean ====
section
/-! DEFINITION. The word types of the block: the 16-bit command word (30_encoding.md R80), the 8-bit
digit pattern (41_digit_encoder.md R104) and the 12-bit operand field. Bits are numbered from 0, the
least significant (00_scope.md R10); the block has no byte order (20_memory.md R61). -/

namespace Sys2Proof

/-- A command word: 16 bits, bit 15 first (R80). -/
abbrev Word := BitVec 16

/-- A digit pattern, or any byte a display slot can hold (R24, R104). -/
abbrev Byte := BitVec 8

/-- An interrupt cause as the command word carries it: 0..4095 (R82, R92). -/
abbrev Cause := BitVec 12

/-- A switch register value, held in 12 bits; only the low `SW_W` of them are used (R38, R81). -/
abbrev Switches := BitVec 12

end Sys2Proof
end

