-- ==== Sys2Proof/Config.lean ====
section
/-! DEFINITION. The configuration record of 00_scope.md R7 and the four test profiles of R9. A
configuration is plain data. Every state carries one (log entry 1), so a statement about every state
holds for every value of the fields the spec leaves OPEN. There is no free value: what the spec leaves
open is a field of this record, a launch input or the schedule of environment events. -/

namespace Sys2Proof

/-- `MODE` (R7): how the block is scheduled; fixed per build (60_exceptions.md R252). -/
inductive Mode
  | irq
  | poll
  deriving DecidableEq, Repr

/-- `VARIANT` (R7): two units (minutes, seconds) or three (hours too). -/
inductive Variant
  | ms
  | hms
  deriving DecidableEq, Repr

/-- `EDGE_LAYOUT` (R7): the edge source has a cause of its own, or is checked in the timer interrupt. -/
inductive EdgeLayout
  | distinct
  | shared
  deriving DecidableEq, Repr

/-- `EDGE_POLARITY` (R7): the transitions of the monitored line that set the capture bit (R222). -/
inductive EdgePolarity
  | any
  | rise
  | fall
  deriving DecidableEq, Repr

/-- A time as `INIT_TIME` gives it (R7). -/
structure TimeValue where
  hr  : Nat
  min : Nat
  sec : Nat
  deriving DecidableEq, Repr

/-- The configuration record: the fields of the table of R7, in its order. The defaults are the table's
values, each a literal of the source or a decision of the spec, so that the model can be run again with
another value (R6); which values are well formed is WellFormed.lean's. A field without a default is OPEN. -/
structure Config where
  mode         : Mode
  variant      : Variant
  /-- `HMOD`, used only when `VARIANT = HMS`. -/
  hmod         : Nat
  /-- `SMOD`: seconds per minute. -/
  smod         : Nat := 60
  /-- `MMOD`: minutes per hour. -/
  mmod         : Nat := 60
  divisor      : Nat := 10
  edgeAdv      : Nat
  /-- Used only when `MODE = IRQ`. -/
  edgeLayout   : EdgeLayout
  causeTimer   : Cause
  /-- Used only when `EDGE_LAYOUT = DISTINCT`. -/
  causeEdge    : Cause
  edgePolarity : EdgePolarity := .any
  /-- `NSLOTS`: the display slots are 0 to `NSLOTS - 1`. -/
  nslots       : Nat := 6
  /-- `SLOT_W`: the width of a slot, which is the width of the type Byte (log entry 15). -/
  slotW        : Nat := 8
  encTable     : Vector Byte 10
  /-- `ENC_HI[10..15]`; entry `i` is the pattern of digit `10 + i`. -/
  encHi        : Vector Byte 6
  /-- `SEL_W`: the width of the field selector in the switches. -/
  selW         : Nat := 2
  /-- `VAL_W`: the width of the raw value in the switches. -/
  valW         : Nat := 6
  swW          : Nat := 10
  selLsb       : Nat := 8
  valLsb       : Nat := 0
  hbW          : Nat := 1
  initTime     : TimeValue
  /-- `TIMER_PERIOD`, in milliseconds. R7 gives its domain as "duration" only: that every rational is taken
  as one, 0 and negative ones too, so that no period is refused with `CONFIG`, is the model's choice (DESIGN
  CHOICE, log entry 15). No rule reads it: the model has no time (70_reset_and_hazards.md R285), and a period
  that does not fit `DIVISOR` is not detectable by the block (60_exceptions.md R243). -/
  timerPeriodMs : Rat := 100
  /-- `TIMER_PERIOD_CYCLES`: OPEN, and no rule uses it (R7). -/
  timerPeriodCycles : Int
  deriving DecidableEq, Repr

/-- The switch width the opcode table's SW row is written for (30_encoding.md R86: `SW_W = 10`). -/
def Config.tableSwW : Nat := 10

/-- The period at which `DIVISOR` timeouts make one second, in milliseconds (43_rate_divider.md R141). -/
def Config.exactPeriodMs (c : Config) : Rat := 1000 / c.divisor

/-- The reference default of `ENC_TABLE` (41_digit_encoder.md R101; the spec marks it general
knowledge, G2). No statement may rest on it: `ENC_TABLE` is OPEN. -/
def Config.referenceTable : Vector Byte 10 :=
  #v[0xC0#8, 0xF9#8, 0xA4#8, 0xB0#8, 0x99#8, 0x92#8, 0x82#8, 0xF8#8, 0x80#8, 0x90#8]

/-- The test value of `ENC_HI` (R9; the spec calls it an arbitrary test choice, G3). -/
def Config.testEncHi : Vector Byte 6 :=
  #v[0x88#8, 0x83#8, 0xC6#8, 0xA1#8, 0x86#8, 0x8E#8]

/-- Test profile TP1 (R9). The profile gives no `TIMER_PERIOD_CYCLES`, which is OPEN: the 0 here is the
model's choice (DESIGN CHOICE, log entry 2). -/
def Config.tp1 (t : TimeValue) : Config where
  mode := .irq
  variant := .hms
  hmod := 24
  edgeAdv := 1
  edgeLayout := .distinct
  causeTimer := 16#12
  causeEdge := 17#12
  encTable := Config.referenceTable
  encHi := Config.testEncHi
  initTime := t
  timerPeriodCycles := 0

/-- Test profile TP2 (R9). The profile leaves `HMOD`, `EDGE_ADV`, `EDGE_LAYOUT` and the causes unused;
they are filled as in TP1 (log entry 2). -/
def Config.tp2 (t : TimeValue) : Config :=
  { Config.tp1 t with mode := .poll, variant := .ms }

/-- Test profile TP3 (R9). `CAUSE_EDGE` is unused; it is filled as in TP1 (log entry 2). -/
def Config.tp3 (t : TimeValue) : Config :=
  { Config.tp1 t with hmod := 100, edgeLayout := .shared, edgeAdv := 2 }

/-- Test profile TP4 (R9). The fields it leaves unused are filled as in TP1 (log entry 2). -/
def Config.tp4 (t : TimeValue) : Config :=
  { Config.tp1 t with mode := .poll }

end Sys2Proof
end

