-- ==== Sys2Proof/Syntax.lean ====
section
/-! DEFINITION. The syntax of the block: one constructor per row of spec/opcode_table.json (30_encoding.md
R83), with the operands of R82 as the fields of the command word, and the environment events that may
fall inside an operation (00_scope.md R15, 20_memory.md R66). -/

namespace Sys2Proof

/-- A command. Every operand is the unsigned field the word carries (R82). -/
inductive Instr
  | nop
  | encode (d : BitVec 4)
  | blank
  | advance
  | setf (sel : BitVec 2) (raw : Byte)
  | decomp
  | tick
  | render
  | wslot (idx : BitVec 4) (pat : Byte)
  | edgesvc
  | levelsvc
  | timersvcIrq
  | timersvcPoll
  | irq (cause : Cause)
  | poll
  | sw (s : Switches)
  | reset
  | timeout
  | line (v : Bool)
  | btn (v : Bool)
  deriving DecidableEq, Repr

/-- An environment event other than RESET (R221 to R224). RESET is atomic and never falls inside an
operation (70_reset_and_hazards.md R271, 91_not_in_source.md N30). -/
inductive EnvEvent
  | timeout
  | line (v : Bool)
  | btn (v : Bool)
  | sw (s : Switches)
  deriving DecidableEq, Repr

end Sys2Proof
end

