-- ==== Sys2Proof/WellFormed.lean ====
section
/-! DEFINITION. Well-formedness: of a configuration (00_scope.md R7 and R8), of a command and of a
scheduled environment event under a switch width (30_encoding.md R81). -/

namespace Sys2Proof

/-- A switch value fits `SW_W` bits (format V of R81). -/
def fitsSwitches (swW : Nat) (s : Switches) : Bool := decide (s.toNat < 2 ^ swW)

/-- A command whose operands its format can carry. Only SW has an operand narrower than its field: the
bits `w[11:SW_W]` are reserved (R81). -/
def Instr.wellFormed (swW : Nat) : Instr → Bool
  | .sw s => fitsSwitches swW s
  | .nop | .encode _ | .blank | .advance | .setf _ _ | .decomp | .tick | .render | .wslot _ _
  | .edgesvc | .levelsvc | .timersvcIrq | .timersvcPoll | .irq _ | .poll | .reset | .timeout
  | .line _ | .btn _ => true

/-- The same for an environment event. -/
def EnvEvent.wellFormed (swW : Nat) : EnvEvent → Bool
  | .sw s => fitsSwitches swW s
  | .timeout | .line _ | .btn _ => true

/-- The switch fields lie inside the switch register and do not overlap (R8, first two points). -/
def Config.switchFieldsOk (c : Config) : Bool :=
  decide (c.selLsb + c.selW ≤ c.swW) && decide (c.valLsb + c.valW ≤ c.swW) &&
    (decide (c.selLsb + c.selW ≤ c.valLsb) || decide (c.valLsb + c.valW ≤ c.selLsb))

/-- The two causes differ where both are used (R8, third point). -/
def Config.causesOk (c : Config) : Bool :=
  match c.edgeLayout with
  | .distinct => c.causeEdge != c.causeTimer
  | .shared => true

/-- `INIT_TIME` lies within the moduli (R8, fourth point). -/
def Config.initTimeOk (c : Config) : Bool :=
  decide (c.initTime.sec < c.smod) && decide (c.initTime.min < c.mmod) &&
    match c.variant with
    | .hms => decide (c.initTime.hr < c.hmod)
    | .ms => c.initTime.hr == 0

/-- Every entry of `ENC_TABLE` has bit 7, the decimal point, off (R8, sixth point; R101). -/
def Config.tableOk (c : Config) : Bool := c.encTable.toList.all (fun b => b.getLsbD 7)

/-- The parameters whose domain in R7 is one value. Another literal is admitted by changing this check
(R6). -/
def Config.literalsOk (c : Config) : Bool :=
  c.smod == 60 && c.mmod == 60 && c.nslots == 6 && c.slotW == 8 && c.selW == 2 && c.valW == 6

/-- The other numeric domains of R7 (a value outside its domain is `CONFIG`, 60_exceptions.md R243; log entry
14 for the fields a build leaves unused). -/
def Config.domainsOk (c : Config) : Bool :=
  (c.hmod == 24 || c.hmod == 100) && (decide (1 ≤ c.divisor) && decide (c.divisor ≤ 15)) &&
    (c.edgeAdv == 1 || c.edgeAdv == 2) && (decide (8 ≤ c.swW) && decide (c.swW ≤ 12)) &&
    decide (1 ≤ c.hbW)

/-- The well-formed configurations (R8). -/
def Config.wellFormed (c : Config) : Bool :=
  c.literalsOk && c.domainsOk && c.switchFieldsOk && c.causesOk && c.initTimeOk && c.tableOk

end Sys2Proof
end

