-- ==== Sys2Proof/Decode.lean ====
section
/-! DEFINITION. The decoder and the encoder of the 16-bit command word (30_encoding.md R80 to R84), both
written from the format table of R81 and the class table of R83. The decoder is total on all 65536
words; a word it refuses is named by the case of R84 that refuses it. -/

namespace Sys2Proof

/-- Why a word is reserved: the three cases of R84. All three are the reason `RSV_ENCODING`. -/
inductive DecodeReject
  /-- A bit marked reserved in its format is 1. -/
  | reservedBits
  /-- `op = 0xF` and `sub ≥ 4`. -/
  | reservedSub
  /-- `op = 0xB` and `w[11:1] ≠ 0`. -/
  | timerOperand
  deriving DecidableEq, Repr

/-- `op = w[15:12]` (R80). -/
def opClass (w : Word) : BitVec 4 := w.extractLsb' 12 4

/-- The operand field `w[11:0]` (R80). -/
def operand (w : Word) : BitVec 12 := w.extractLsb' 0 12

/-- Format N: the whole operand field is reserved. -/
def decodeN (i : Instr) (w : Word) : Except DecodeReject Instr :=
  if operand w = 0#12 then .ok i else .error .reservedBits

/-- Format D: `d = w[3:0]`. -/
def decodeD (w : Word) : Except DecodeReject Instr :=
  if w.extractLsb' 4 8 = 0#8 then .ok (.encode (w.extractLsb' 0 4)) else .error .reservedBits

/-- Format S: `sel = w[9:8]`, `raw = w[7:0]`. -/
def decodeS (w : Word) : Except DecodeReject Instr :=
  if w.extractLsb' 10 2 = 0#2 then .ok (.setf (w.extractLsb' 8 2) (w.extractLsb' 0 8))
  else .error .reservedBits

/-- Format T: `m = w[0]`, 0 = .IRQ, 1 = .POLL. -/
def decodeT (w : Word) : Except DecodeReject Instr :=
  if w.extractLsb' 1 11 = 0#11 then .ok (if w.getLsbD 0 then .timersvcPoll else .timersvcIrq)
  else .error .timerOperand

/-- Format V: `s = w[SW_W-1:0]`; the bits `w[11:SW_W]` are reserved. -/
def decodeV (swW : Nat) (w : Word) : Except DecodeReject Instr :=
  if fitsSwitches swW (operand w) then .ok (.sw (operand w)) else .error .reservedBits

/-- Format E: `sub = w[11:8]`; RESET and TIMEOUT have `w[7:0] = 0`, LINE and BTN have `w[7:1] = 0` and
`v = w[0]`. -/
def decodeE (w : Word) : Except DecodeReject Instr :=
  match (w.extractLsb' 8 4).toNat with
  | 0 => if w.extractLsb' 0 8 = 0#8 then .ok .reset else .error .reservedBits
  | 1 => if w.extractLsb' 0 8 = 0#8 then .ok .timeout else .error .reservedBits
  | 2 => if w.extractLsb' 1 7 = 0#7 then .ok (.line (w.getLsbD 0)) else .error .reservedBits
  | 3 => if w.extractLsb' 1 7 = 0#7 then .ok (.btn (w.getLsbD 0)) else .error .reservedBits
  | _ => .error .reservedSub

/-- The decoder (R80, R83, R84). Its one parameter is the configured `SW_W`, on which format V depends. -/
def decode (swW : Nat) (w : Word) : Except DecodeReject Instr :=
  match (opClass w).toNat with
  | 0x0 => decodeN .nop w
  | 0x1 => decodeD w
  | 0x2 => decodeN .blank w
  | 0x3 => decodeN .advance w
  | 0x4 => decodeS w
  | 0x5 => decodeN .decomp w
  | 0x6 => decodeN .tick w
  | 0x7 => decodeN .render w
  | 0x8 => .ok (.wslot (w.extractLsb' 8 4) (w.extractLsb' 0 8))
  | 0x9 => decodeN .edgesvc w
  | 0xA => decodeN .levelsvc w
  | 0xB => decodeT w
  | 0xC => .ok (.irq (operand w))
  | 0xD => decodeN .poll w
  | 0xE => decodeV swW w
  | _ => decodeE w

/-- The encoder (R81, R83): the one word of a well-formed command. -/
def encode : Instr → Word
  | .nop => 0x0#4 ++ 0#12
  | .encode d => 0x1#4 ++ 0#8 ++ d
  | .blank => 0x2#4 ++ 0#12
  | .advance => 0x3#4 ++ 0#12
  | .setf sel raw => 0x4#4 ++ 0#2 ++ sel ++ raw
  | .decomp => 0x5#4 ++ 0#12
  | .tick => 0x6#4 ++ 0#12
  | .render => 0x7#4 ++ 0#12
  | .wslot idx pat => 0x8#4 ++ idx ++ pat
  | .edgesvc => 0x9#4 ++ 0#12
  | .levelsvc => 0xA#4 ++ 0#12
  | .timersvcIrq => 0xB#4 ++ 0#11 ++ 0#1
  | .timersvcPoll => 0xB#4 ++ 0#11 ++ 1#1
  | .irq cause => 0xC#4 ++ cause
  | .poll => 0xD#4 ++ 0#12
  | .sw s => 0xE#4 ++ s
  | .reset => 0xF#4 ++ 0#4 ++ 0#8
  | .timeout => 0xF#4 ++ 1#4 ++ 0#8
  | .line v => 0xF#4 ++ 2#4 ++ 0#7 ++ BitVec.ofBool v
  | .btn v => 0xF#4 ++ 3#4 ++ 0#7 ++ BitVec.ofBool v

/-- What the decoder reads from a word of `nbits` bits numbered as spec/opcode_table.json numbers them.
A command is one 16-bit word (R80): a longer one is no command. The table's SW row is written for
`SW_W = 10` (R86; log entry 16). -/
def decodeTableWord (nbits w : Nat) : Option Instr :=
  if nbits ≤ 16 then (decode Config.tableSwW (BitVec.ofNat 16 (w % 2 ^ nbits))).toOption else none

end Sys2Proof
end

