-- ==== Sys2Proof/Machine/State.lean ====
section
/-! DEFINITION. The state of the block and of the platform it sees, as plain data (10_state.md R20 and
R33), with the refusal log of 60_exceptions.md R242, the configuration (00_scope.md R7) and the model's
own input and observation fields; the outcomes that are no next state; and the state right after reset
(46_event_dispatcher.md R220, 70_reset_and_hazards.md R280). -/

namespace Sys2Proof.Machine

/-- `phase` (R25): the software debounce of the level-polled channel. -/
inductive Phase
  | sample
  | waitRelease
  deriving DecidableEq, Repr

/-- The reason codes of a refused command (60_exceptions.md R242). These are reasons the block records
and goes on, not outcomes of the host's kind (log entry 4). -/
inductive Reason
  | config
  | rsvEncoding
  | notReset
  | wrongMode
  | irqDisabled
  | irqNotPending
  deriving DecidableEq, Repr

/-- One entry of the refusal log: the command word and the reason (R242). -/
structure RefusalRecord where
  word   : Word
  reason : Reason
  deriving DecidableEq, Repr

/-- One port access of a block operation (20_memory.md R62, 10_state.md R40), with the value read or
written. -/
inductive Access
  | readTimerStatus (v : Bool)
  | ackTimer
  | readCap (v : Bool)
  | ackCap (v : Bool)
  | readLine (v : Bool)
  | readBtn (v : Bool)
  | readSwitches (s : Switches)
  | slotWrite (idx : BitVec 4) (pat : Byte)
  deriving DecidableEq, Repr

/-- The block registers (R20). `slots` is `slot[0]` to `slot[NSLOTS-1]`, with `none` for `UNSET` (R14, log
entry 10); that it has `NSLOTS` entries is an invariant (Safety.lean, SlotsSized). -/
structure Block where
  booted     : Bool
  sec        : BitVec 6
  min        : BitVec 6
  hr         : BitVec 7
  tick       : BitVec 4
  slots      : List (Option Byte)
  phase      : Phase
  hb         : Nat
  latchLevel : Bool
  res        : BitVec 32
  deriving DecidableEq, Repr

/-- The platform state (R33). `timeout` is the field `TO`; the others carry the spec's names. -/
structure Platform where
  timeout : Bool
  timRun  : Bool
  timCont : Bool
  timIto  : Bool
  cap     : Bool
  capIe   : Bool
  line    : Bool
  btn     : Bool
  sw      : Switches
  ie      : Bool
  deriving DecidableEq, Repr

/-- The whole state. -/
structure State where
  /-- The configuration (R7); no step writes it (log entry 1). -/
  cfg      : Config
  /-- The block registers `r.x`. -/
  r        : Block
  /-- The platform state `p.X`. -/
  p        : Platform
  /-- The refusal log (R242), oldest first. -/
  refusals : List RefusalRecord
  /-- The model's own: the command words still to be taken (log entry 5). -/
  commands : List Word
  /-- The model's own: the environment events that fall before each coming port access (R66; log
  entry 7). An exhausted schedule means no further event inside an operation. -/
  env      : List (List EnvEvent)
  /-- The model's own: the port accesses made so far, oldest first (log entry 8). -/
  trace    : List Access
  deriving DecidableEq, Repr

/-- The ways a step can fault: none. "The block raises no exception, no trap and no error code" (R240)
and "has no run-time fault state" (R243), so the type has no constructor (log entry 18). -/
inductive Fault
  deriving DecidableEq, Repr

/-- The ways a step can be refused by the host's meaning of the word. -/
inductive Refusal
  /-- Raised by exec's arm of an instruction that has no meaning yet; no arm raises it now. Safe: the
  machine stops. -/
  | notModelled (mnemonic : String)
  deriving DecidableEq, Repr

/-- The block registers as RESET leaves them (R31, R220). `INIT_TIME` comes from the configuration. -/
def Block.afterReset (c : Config) : Block where
  booted := true
  sec := BitVec.ofNat 6 c.initTime.sec
  min := BitVec.ofNat 6 c.initTime.min
  hr := BitVec.ofNat 7 c.initTime.hr
  tick := 0#4
  slots := List.replicate c.nslots none
  phase := .sample
  hb := 0
  latchLevel := false
  res := 0#32

/-- The platform state as RESET and BOOT leave it (R33, R220, R280); the inputs keep the values given. -/
def Platform.afterReset (c : Config) (line btn : Bool) (sw : Switches) : Platform where
  timeout := false
  timRun := true
  timCont := true
  timIto := c.mode == .irq
  cap := false
  capIe := c.mode == .irq && c.edgeLayout == .distinct
  line := line
  btn := btn
  sw := sw
  ie := c.mode == .irq

/-- The state right after the first RESET, for a configuration and launch inputs (R270, R271). -/
def State.resetWith (c : Config) (line btn : Bool) (sw : Switches) : State where
  cfg := c
  r := Block.afterReset c
  p := Platform.afterReset c line btn sw
  refusals := []
  commands := []
  env := []
  trace := []

/-- The state at power-on, before the first RESET (R270): not booted and every control field 0. The
other registers "hold no value" and are never read; the model writes 0 or `UNSET` there (log entry 11). -/
def State.powerOn (c : Config) (line btn : Bool) (sw : Switches) : State where
  cfg := c
  r :=
    { booted := false, sec := 0#6, min := 0#6, hr := 0#7, tick := 0#4
      slots := List.replicate c.nslots none
      phase := .sample, hb := 0, latchLevel := false, res := 0#32 }
  p :=
    { timeout := false, timRun := false, timCont := false, timIto := false, cap := false
      capIe := false, line := line, btn := btn, sw := sw, ie := false }
  refusals := []
  commands := []
  env := []
  trace := []

/-- The machine right after reset. The configuration is OPEN in the spec: this takes TP1 with `INIT_TIME`
00:00:00 (log entry 2), and launch inputs 0 (log entry 3). -/
def State.reset : State :=
  State.resetWith (Config.tp1 { hr := 0, min := 0, sec := 0 }) false false 0#12

end Sys2Proof.Machine
end

