-- ==== Sys2Proof/Machine/Flags.lean ====
section
/-! DEFINITION. The one-bit conditions and computed views of the state: the capture condition of a line
transition (46_event_dispatcher.md R222), the pending requests (60_exceptions.md R244), the refusal mark
and the reason codes (R242), the divider's wrap condition (43_rate_divider.md R140), and the output ports
(10_state.md R32 and R40). The block has no condition-code register (10_state.md R41). -/

namespace Sys2Proof.Machine

/-- A change of the monitored line from `old` to `new` sets the capture bit (R222). -/
def captures (pol : EdgePolarity) (old new : Bool) : Bool :=
  old != new &&
    match pol with
    | .any => true
    | .rise => new
    | .fall => !new

/-- `irq_timer = p.TO ∧ p.TIM_ITO` (R244). -/
def irqTimer (s : State) : Bool := s.p.timeout && s.p.timIto

/-- `irq_edge = p.CAP ∧ p.CAP_IE` (R244). -/
def irqEdge (s : State) : Bool := s.p.cap && s.p.capIe

/-- The divider wraps: the incremented counter reaches `DIVISOR` (R140). -/
def wraps (s : State) : Bool := s.r.tick.toNat + 1 == s.cfg.divisor

/-- The refusal mark (R242): set by the first refused command, never cleared. -/
def State.refusalMark (s : State) : Bool := !s.refusals.isEmpty

/-- The reason codes 1 to 6 (R242). -/
def Reason.code : Reason → Nat
  | .config => 1
  | .rsvEncoding => 2
  | .notReset => 3
  | .wrongMode => 4
  | .irqDisabled => 5
  | .irqNotPending => 6

/-- The `HEARTBEAT` port shows `r.hb` (R40). -/
def heartbeatPort (s : State) : Nat := s.r.hb

end Sys2Proof.Machine
end

