-- ==== Sys2Proof/Machine/Operands.lean ====
section
/-! DEFINITION. The operand forms of the block: the field selector (30_encoding.md R91), the interrupt
cause (R92), the two fields of the switch register (10_state.md R38), the digits of the time
(42_time_register.md R124) and the digit patterns (00_scope.md R13). -/

namespace Sys2Proof.Machine

/-- A unit of the time register. -/
inductive TimeUnit
  | sec
  | min
  | hr
  deriving DecidableEq, Repr

/-- The unit a field selector names, or none (R91). -/
def selectedUnit (v : Variant) (sel : Nat) : Option TimeUnit :=
  match sel with
  | 1 => some .sec
  | 2 => some .min
  | 3 =>
    match v with
    | .hms => some .hr
    | .ms => none
  | _ => none

/-- What an interrupt cause stands for (R92, R210). -/
inductive CauseClass
  | timer
  | edge
  | unrecognised
  deriving DecidableEq, Repr

/-- The cause encoding (R92): the timer's value first; the edge's value only when
`EDGE_LAYOUT = DISTINCT`; every other value is unrecognised. -/
def classifyCause (c : Config) (cause : Cause) : CauseClass :=
  if cause = c.causeTimer then .timer
  else
    match c.edgeLayout with
    | .distinct => if cause = c.causeEdge then .edge else .unrecognised
    | .shared => .unrecognised

/-- `sel`, the `SEL_W` bits of the switches from `SEL_LSB` on (R38, R185). -/
def switchSelector (c : Config) (s : Switches) : Nat := (s.extractLsb' c.selLsb c.selW).toNat

/-- `raw`, the `VAL_W` bits of the switches from `VAL_LSB` on (R38, R185). -/
def switchValue (c : Config) (s : Switches) : Nat := (s.extractLsb' c.valLsb c.valW).toNat

/-- The number of digits a variant shows: `n` of R124. -/
def digitCount (v : Variant) : Nat :=
  match v with
  | .hms => 6
  | .ms => 4

/-- The low decimal digit of a unit value, as a 4-bit digit. -/
def ones (n : Nat) : BitVec 4 := BitVec.ofNat 4 (n % 10)

/-- The high decimal digit of a unit value, as a 4-bit digit. -/
def tens (n : Nat) : BitVec 4 := BitVec.ofNat 4 (n / 10)

/-- The six digits `d0 .. d5` of the time, least significant first (R32, R124). -/
def timeDigits (r : Block) : List (BitVec 4) :=
  [ones r.sec.toNat, tens r.sec.toNat, ones r.min.toNat, tens r.min.toNat, ones r.hr.toNat,
    tens r.hr.toNat]

/-- `TIME_PACKED`, the read-only view of the time in decimal nibbles (R32). -/
def timePacked (r : Block) : BitVec 24 :=
  tens r.hr.toNat ++ ones r.hr.toNat ++ tens r.min.toNat ++ ones r.min.toNat ++
    tens r.sec.toNat ++ ones r.sec.toNat

/-- `ENC(i)` (R13): `ENC_TABLE` for a digit 0..9, `ENC_HI` for 10..15 (R101, R102). -/
def enc (c : Config) (d : BitVec 4) : Byte :=
  if h : d.toNat < 10 then c.encTable[d.toNat]
  else c.encHi[d.toNat - 10]'(by have := d.isLt; omega)

/-- `BLANK_PAT`: every segment off, the decimal point included (R103). -/
def blankPat : Byte := 0xFF#8

end Sys2Proof.Machine
end

