-- ==== Sys2Proof/Machine/Ops.lean ====
section
/-! DEFINITION. The named operations everything else is built from: register writes, environment events,
the port accesses with the interleaving of 20_memory.md R66, the display write (44_display_renderer.md
R165), admission (30_encoding.md R87) and the one shared refusal operation (60_exceptions.md R242). The
block takes no exception (R240), so there is no exception entry; interrupt entry saves nothing and return
restores nothing (R249, R250). -/

namespace Sys2Proof.Machine

/-! ### Register writes -/

/-- `r.sec <- n`. -/
def State.setSec (s : State) (n : Nat) : State := { s with r := { s.r with sec := BitVec.ofNat 6 n } }

/-- `r.min <- n`. -/
def State.setMin (s : State) (n : Nat) : State := { s with r := { s.r with min := BitVec.ofNat 6 n } }

/-- `r.hr <- n`. -/
def State.setHr (s : State) (n : Nat) : State := { s with r := { s.r with hr := BitVec.ofNat 7 n } }

/-- `r.tick <- n`. -/
def State.setTick (s : State) (n : Nat) : State := { s with r := { s.r with tick := BitVec.ofNat 4 n } }

/-- `r.phase <- f`. -/
def State.setPhase (s : State) (f : Phase) : State := { s with r := { s.r with phase := f } }

/-- `r.hb <- n`. -/
def State.setHb (s : State) (n : Nat) : State := { s with r := { s.r with hb := n } }

/-- `r.latch_level <- v`. -/
def State.setLatch (s : State) (v : Bool) : State := { s with r := { s.r with latchLevel := v } }

/-- `r.res <- v`; only top-level commands use it (R30). -/
def State.setRes (s : State) (v : BitVec 32) : State := { s with r := { s.r with res := v } }

/-- `r.slot[0..5] <- v`. -/
def State.setSlots (s : State) (v : List (Option Byte)) : State :=
  { s with r := { s.r with slots := v } }

/-- The platform state becomes `p`. -/
def State.setP (s : State) (p : Platform) : State := { s with p := p }

/-- A port access is recorded. -/
def State.record (s : State) (a : Access) : State := { s with trace := s.trace ++ [a] }

/-! ### Environment events -/

/-- The effect of an environment event on the platform state (R221 to R224). A LINE event that makes a
transition `EDGE_POLARITY` allows sets `p.CAP`; nothing here clears it. -/
def applyEvent (c : Config) (p : Platform) : EnvEvent → Platform
  | .timeout => { p with timeout := true }
  | .line v => { p with line := v, cap := p.cap || captures c.edgePolarity p.line v }
  | .btn v => { p with btn := v }
  | .sw s => { p with sw := s }

/-- A finite sequence of environment events, in order. -/
def applyEvents (c : Config) (p : Platform) (es : List EnvEvent) : Platform :=
  es.foldl (applyEvent c) p

/-- The environment's turn before one port access (R66): the events the schedule gives for it happen. -/
def interlude (s : State) : State :=
  { s with p := applyEvents s.cfg s.p (s.env.headD []), env := s.env.tail }

/-- The turns before `n` port accesses of which none writes the platform state. -/
def interludes : Nat → State → State
  | 0, s => s
  | n + 1, s => interludes n (interlude s)

/-! ### Port accesses (R12, R40, R62) -/

/-- `PortRead(TIMER_STATUS)` returns `p.TO`. -/
def readTimerStatus (s : State) : Bool × State :=
  let s := interlude s
  (s.p.timeout, s.record (.readTimerStatus s.p.timeout))

/-- `PortRead(CAP_READ)` returns `p.CAP`, without a side effect (90_conflicts.md C1). -/
def readCap (s : State) : Bool × State :=
  let s := interlude s
  (s.p.cap, s.record (.readCap s.p.cap))

/-- `PortRead(LINE_LEVEL)` returns `p.LINE`. -/
def readLine (s : State) : Bool × State :=
  let s := interlude s
  (s.p.line, s.record (.readLine s.p.line))

/-- `PortRead(BTN_LEVEL)` returns `p.BTN`. -/
def readBtn (s : State) : Bool × State :=
  let s := interlude s
  (s.p.btn, s.record (.readBtn s.p.btn))

/-- `PortRead(SW_LEVEL)` returns `p.SW`. -/
def readSwitches (s : State) : Switches × State :=
  let s := interlude s
  (s.p.sw, s.record (.readSwitches s.p.sw))

/-- `PortWrite(TIMER_ACK, 1)` sets `p.TO <- 0` (R34). -/
def ackTimer (s : State) : State :=
  let s := interlude s
  (s.setP { s.p with timeout := false }).record .ackTimer

/-- `PortWrite(CAP_ACK, v)`: writing 1 sets `p.CAP <- 0`, writing 0 has no effect (R40). -/
def ackCap (v : Bool) (s : State) : State :=
  let s := interlude s
  (s.setP { s.p with cap := s.p.cap && !v }).record (.ackCap v)

/-- The `n` slots after a display write: an index of `n` or more is silently ignored (R165). -/
def writeSlot (n : Nat) (slots : List (Option Byte)) (i : BitVec 4) (v : Byte) : List (Option Byte) :=
  if i.toNat < n then slots.set i.toNat (some v) else slots

/-- `SlotWrite(i, v)` (R165). -/
def slotWrite (i : BitVec 4) (v : Byte) (s : State) : State :=
  let s := interlude s
  (s.setSlots (writeSlot s.cfg.nslots s.r.slots i v)).record (.slotWrite i v)

/-! ### Admission and refusal -/

/-- The commands admitted before the first RESET (R87). -/
def worksBeforeReset : Instr → Bool
  | .reset | .line _ | .btn _ | .sw _ => true
  | .nop | .encode _ | .blank | .advance | .setf _ _ | .decomp | .tick | .render | .wslot _ _
  | .edgesvc | .levelsvc | .timersvcIrq | .timersvcPoll | .irq _ | .poll | .timeout => false

/-- The mode whose dispatcher or channel a command belongs to, or none for a command of both (R87, R252). -/
def needsMode : Instr → Option Mode
  | .irq _ | .edgesvc | .timersvcIrq => some .irq
  | .poll | .levelsvc | .timersvcPoll => some .poll
  | .nop | .encode _ | .blank | .advance | .setf _ _ | .decomp | .tick | .render | .wslot _ _
  | .sw _ | .reset | .timeout | .line _ | .btn _ => none

/-- A command of the other mode. -/
def wrongMode (i : Instr) (m : Mode) : Bool :=
  match needsMode i with
  | some m' => m' != m
  | none => false

/-- The last two rows of the table of R87, for an interrupt entry with this cause (R246). -/
def entryRefusal (s : State) (cause : Cause) : Option Reason :=
  if !s.p.ie then some .irqDisabled
  else
    match classifyCause s.cfg cause with
    | .timer => if irqTimer s then none else some .irqNotPending
    | .edge => if irqEdge s then none else some .irqNotPending
    | .unrecognised => none

/-- The cause of an interrupt entry. -/
def entryCause : Instr → Option Cause
  | .irq cause => some cause
  | .nop | .encode _ | .blank | .advance | .setf _ _ | .decomp | .tick | .render | .wslot _ _
  | .edgesvc | .levelsvc | .timersvcIrq | .timersvcPoll | .poll | .sw _ | .reset | .timeout
  | .line _ | .btn _ => none

/-- The admission table of R87, top to bottom: the reason of the first row whose condition holds, or none
for an admitted command. -/
def refusalReason (i : Instr) (s : State) : Option Reason :=
  if !s.cfg.wellFormed then some .config
  else if !i.wellFormed s.cfg.swW then some .rsvEncoding
  else if !s.r.booted && !worksBeforeReset i then some .notReset
  else if wrongMode i s.cfg.mode then some .wrongMode
  else
    match entryCause i with
    | some cause => entryRefusal s cause
    | none => none

/-- A refused command does not execute: its word and the reason are recorded, and nothing else changes
(R242). The mark it sets is that the log is no longer empty. -/
def State.refuse (s : State) (w : Word) (why : Reason) : State :=
  { s with refusals := s.refusals ++ [{ word := w, reason := why }] }

/-- A command executes when it is admitted, and is refused otherwise (R87). Both are next states (log
entry 4). -/
def ifAdmitted (i : Instr) (s : State) (run : State → State) : Host.Outcome State Fault Refusal :=
  match refusalReason i s with
  | none => .next (run s)
  | some why => .next (s.refuse (encode i) why)

end Sys2Proof.Machine
end

