-- ==== Sys2Proof/Machine/DigitEncoder.lean ====
section
/-! DEFINITION. The digit encoder (41_digit_encoder.md): ENCODE and BLANK. Both are pure as sub-steps and
write only `r.res` as commands (R105). -/

namespace Sys2Proof.Machine

/-- ENCODE (R100): `r.res <- zext_32(ENC(d))`. -/
def execEncode (d : BitVec 4) (s : State) : Host.Outcome State Fault Refusal :=
  ifAdmitted (.encode d) s fun s => s.setRes ((enc s.cfg d).setWidth 32)

/-- BLANK (R103): `r.res <- 0x000000FF`. -/
def execBlank (s : State) : Host.Outcome State Fault Refusal :=
  ifAdmitted .blank s fun s => s.setRes (blankPat.setWidth 32)

end Sys2Proof.Machine
end

