-- ==== Sys2Proof/Machine/Environment.lean ====
section
/-! DEFINITION. RESET with the boot sequence (46_event_dispatcher.md R220, 70_reset_and_hazards.md R280)
and the environment events TIMEOUT, LINE, BTN and SW (R221 to R224). None of them makes a port access, so
no scheduled event falls inside one (R271). -/

namespace Sys2Proof.Machine

/-- The register and platform writes of RESET before BOOT (R220). The inputs are not changed. -/
def clearForReset (s : State) : State :=
  { s with
    r :=
      { s.r with
        sec := BitVec.ofNat 6 s.cfg.initTime.sec
        min := BitVec.ofNat 6 s.cfg.initTime.min
        hr := BitVec.ofNat 7 s.cfg.initTime.hr
        tick := 0#4
        slots := List.replicate s.cfg.nslots none
        phase := .sample
        hb := 0
        latchLevel := false
        res := 0#32 }
    p :=
      { s.p with
        timeout := false
        cap := false
        timRun := false
        timCont := false
        timIto := false
        capIe := false
        ie := false } }

/-- BOOT (R280): the timer, then the edge source's mask, then the global enable, last. -/
def boot (s : State) : State :=
  let p := { s.p with timCont := true }
  let p := { p with timIto := s.cfg.mode == Mode.irq }
  let p := { p with timRun := true }
  let p := { p with capIe := s.cfg.mode == Mode.irq && s.cfg.edgeLayout == EdgeLayout.distinct }
  { s with p := { p with ie := s.cfg.mode == Mode.irq } }

/-- `r.booted <- 1` (R28, R220). -/
def markBooted (s : State) : State := { s with r := { s.r with booted := true } }

/-- RESET (R220). -/
def execReset (s : State) : Host.Outcome State Fault Refusal :=
  ifAdmitted .reset s fun s => markBooted (boot (clearForReset s))

/-- TIMEOUT (R221). -/
def execTimeout (s : State) : Host.Outcome State Fault Refusal :=
  ifAdmitted .timeout s fun s => s.setP (applyEvent s.cfg s.p .timeout)

/-- LINE (R222). -/
def execLine (v : Bool) (s : State) : Host.Outcome State Fault Refusal :=
  ifAdmitted (.line v) s fun s => s.setP (applyEvent s.cfg s.p (.line v))

/-- BTN (R223). -/
def execBtn (v : Bool) (s : State) : Host.Outcome State Fault Refusal :=
  ifAdmitted (.btn v) s fun s => s.setP (applyEvent s.cfg s.p (.btn v))

/-- SW (R224). -/
def execSw (sws : Switches) (s : State) : Host.Outcome State Fault Refusal :=
  ifAdmitted (.sw sws) s fun s => s.setP (applyEvent s.cfg s.p (.sw sws))

end Sys2Proof.Machine
end

