-- ==== Sys2Proof/Machine/TimeRegister.lean ====
section
/-! DEFINITION. The time register (42_time_register.md): ADVANCE, SETF and DECOMP. None of them touches
`r.tick` or renders (R120, R122, R123). -/

namespace Sys2Proof.Machine

/-- The carry out of minutes: into hours in the three-unit variant, dropped in the other (R120). -/
def carryIntoHours (s : State) : State :=
  match s.cfg.variant with
  | .hms => s.setHr ((s.r.hr.toNat + 1) % s.cfg.hmod)
  | .ms => s

/-- The carry out of seconds (R120). -/
def carryIntoMinutes (s : State) : State :=
  if s.r.min.toNat + 1 < s.cfg.mmod then s.setMin (s.r.min.toNat + 1)
  else carryIntoHours (s.setMin 0)

/-- ADVANCE as a sub-step (R120). -/
def advance (s : State) : State :=
  if s.r.sec.toNat + 1 < s.cfg.smod then s.setSec (s.r.sec.toNat + 1)
  else carryIntoMinutes (s.setSec 0)

/-- `repeat n times: call ADVANCE` (R180). -/
def advanceTimes : Nat → State → State
  | 0, s => s
  | n + 1, s => advanceTimes n (advance s)

/-- SETF as a sub-step (R122): the raw value, reduced by the unit's modulus, into the selected unit. -/
def setField (sel raw : Nat) (s : State) : State :=
  match selectedUnit s.cfg.variant sel with
  | some .sec => s.setSec (raw % s.cfg.smod)
  | some .min => s.setMin (raw % s.cfg.mmod)
  | some .hr => s.setHr (raw % s.cfg.hmod)
  | none => s

/-- DECOMP as a sub-step (R124): the `n` digits of the variant, least significant first. -/
def decompose (s : State) : List (BitVec 4) := (timeDigits s.r).take (digitCount s.cfg.variant)

/-- The value a top-level DECOMP shows (R124): `{ n[7:0], d5, d4, d3, d2, d1, d0 }`. -/
def decompResult (s : State) : BitVec 32 :=
  BitVec.ofNat 8 (digitCount s.cfg.variant) ++ timePacked s.r

/-- ADVANCE (R120). -/
def execAdvance (s : State) : Host.Outcome State Fault Refusal := ifAdmitted .advance s advance

/-- SETF (R122), with the command word's 8-bit raw value (90_conflicts.md C6). -/
def execSetf (sel : BitVec 2) (raw : Byte) (s : State) : Host.Outcome State Fault Refusal :=
  ifAdmitted (.setf sel raw) s (setField sel.toNat raw.toNat)

/-- DECOMP (R124). -/
def execDecomp (s : State) : Host.Outcome State Fault Refusal :=
  ifAdmitted .decomp s fun s => s.setRes (decompResult s)

end Sys2Proof.Machine
end

