-- ==== Sys2Proof/Machine/DisplayRenderer.lean ====
section
/-! DEFINITION. The display renderer (44_display_renderer.md): RENDER and WSLOT. The only write path to a
slot is the display write of R165. -/

namespace Sys2Proof.Machine

/-- The pattern of slot `i`: the digit's pattern, or blank where the variant has no digit (R160, R164). -/
def slotPattern (c : Config) (digits : List (BitVec 4)) (i : Nat) : Byte :=
  match digits[i]? with
  | some d => enc c d
  | none => blankPat

/-- The display writes of a render for the slots of a list, in its order (R160, R72). -/
def renderSlots (digits : List (BitVec 4)) : List Nat → State → State
  | [], s => s
  | i :: rest, s =>
    renderSlots digits rest (slotWrite (BitVec.ofNat 4 i) (slotPattern s.cfg digits i) s)

/-- RENDER as a sub-step (R160): all slots in ascending order. -/
def render (s : State) : State := renderSlots (decompose s) (List.range s.cfg.nslots) s

/-- RENDER (R160). -/
def execRender (s : State) : Host.Outcome State Fault Refusal := ifAdmitted .render s render

/-- WSLOT (R163). -/
def execWslot (idx : BitVec 4) (pat : Byte) (s : State) : Host.Outcome State Fault Refusal :=
  ifAdmitted (.wslot idx pat) s (slotWrite idx pat)

end Sys2Proof.Machine
end

