-- ==== Sys2Proof/Machine/InputEdgeDetector.lean ====
section
/-! DEFINITION. The input edge detector (45_input_edge_detector.md): EDGESVC, the edge channel, and
LEVELSVC, the level-polled channel with the debounce. -/

namespace Sys2Proof.Machine

/-- The level sample of the edge channel goes to the latch; on an active level the time advances
`EDGE_ADV` times and is rendered once (R180 (b), (c)). -/
def latchAndAdvance (lvl : Bool) (s : State) : State :=
  if lvl then render (advanceTimes s.cfg.edgeAdv (s.setLatch true)) else s.setLatch false

/-- The edge channel after the capture bit was seen set (EDGE_PENDING, R180, R181): acknowledge, sample
the level, act on it. -/
def serviceEdge (s : State) : State :=
  latchAndAdvance (readLine (ackCap true s)).1 (readLine (ackCap true s)).2

/-- EDGESVC as a sub-step (R180). -/
def edgeService (s : State) : State :=
  if (readCap s).1 then serviceEdge (readCap s).2 else (readCap s).2

/-- The press step's action on the sampled switches (R185): SETF, RENDER, then wait for the release. -/
def applySwitches (sws : Switches) (s : State) : State :=
  (render (setField (switchSelector s.cfg sws) (switchValue s.cfg sws) s)).setPhase .waitRelease

/-- The press step of the level channel after the button was seen asserted (R185): the switches are read
once. -/
def pressStep (s : State) : State := applySwitches (readSwitches s).1 (readSwitches s).2

/-- LEVELSVC on a sample of the button (R185); the result is `proceed`. -/
def onButton (b : Bool) (s : State) : Bool × State :=
  match s.r.phase with
  | .sample => if b then (false, pressStep s) else (true, s)
  | .waitRelease => if b then (false, s) else (true, s.setPhase .sample)

/-- LEVELSVC as a sub-step (R185): one sample of the button. -/
def levelService (s : State) : Bool × State := onButton (readBtn s).1 (readBtn s).2

/-- EDGESVC (R180). -/
def execEdgesvc (s : State) : Host.Outcome State Fault Refusal := ifAdmitted .edgesvc s edgeService

/-- LEVELSVC (R185); its `proceed` result is read by POLL only. -/
def execLevelsvc (s : State) : Host.Outcome State Fault Refusal :=
  ifAdmitted .levelsvc s fun s => (levelService s).2

end Sys2Proof.Machine
end

