-- ==== Sys2Proof/Machine/RateDivider.lean ====
section
/-! DEFINITION. The rate divider (43_rate_divider.md): TICK. It writes `r.tick` only; its caller advances
the time (R140). -/

namespace Sys2Proof.Machine

/-- TICK as a sub-step (R140): the wrap result, and the counter after it. -/
def tick (s : State) : Bool × State :=
  if wraps s then (true, s.setTick 0) else (false, s.setTick (s.r.tick.toNat + 1))

/-- TICK (R140): as a command it also shows the wrap result in `r.res`. -/
def execTick (s : State) : Host.Outcome State Fault Refusal :=
  ifAdmitted .tick s fun s => (tick s).2.setRes ((BitVec.ofBool (tick s).1).setWidth 32)

end Sys2Proof.Machine
end

