-- ==== Sys2Proof/Machine/EventDispatcher.lean ====
section
/-! DEFINITION. The event dispatcher (46_event_dispatcher.md): the two timer paths, the interrupt entry
IRQ, the polling iteration POLL, and NOP. The block saves nothing at interrupt entry and restores nothing
at return (60_exceptions.md R249, R250). -/

namespace Sys2Proof.Machine

/-- After an acknowledged timeout: one TICK, and on a wrap one ADVANCE and one RENDER (R142, R200, R201). -/
def divideAndShow (s : State) : State :=
  if (tick s).1 then render (advance (tick s).2) else (tick s).2

/-- TIMERSVC.IRQ as a sub-step (R200): acknowledge first, without testing the flag. -/
def timerServiceIrq (s : State) : State := divideAndShow (ackTimer s)

/-- The heartbeat's step (R26, R201): plus 1 modulo `2^HB_W`. -/
def beat (s : State) : State := s.setHb ((s.r.hb + 1) % 2 ^ s.cfg.hbW)

/-- TIMERSVC.POLL as a sub-step (R201). -/
def timerServicePoll (s : State) : State :=
  if (readTimerStatus s).1 then divideAndShow (beat (ackTimer (readTimerStatus s).2))
  else (readTimerStatus s).2

/-- The interrupt entry's work on a cause (R210): in SHARED the timer path comes first, then the edge
check; an unrecognised cause does nothing. -/
def dispatchCause (cause : Cause) (s : State) : State :=
  match classifyCause s.cfg cause with
  | .timer =>
    match s.cfg.edgeLayout with
    | .shared => edgeService (timerServiceIrq s)
    | .distinct => timerServiceIrq s
  | .edge => edgeService s
  | .unrecognised => s

/-- One iteration of the polling loop (R212): the button first, then the timer if the level channel lets
control proceed. -/
def pollIteration (s : State) : State :=
  if (levelService s).1 then timerServicePoll (levelService s).2 else (levelService s).2

/-- NOP (R214). -/
def execNop (s : State) : Host.Outcome State Fault Refusal := ifAdmitted .nop s fun s => s

/-- TIMERSVC.IRQ (R200). -/
def execTimersvcIrq (s : State) : Host.Outcome State Fault Refusal :=
  ifAdmitted .timersvcIrq s timerServiceIrq

/-- TIMERSVC.POLL (R201). -/
def execTimersvcPoll (s : State) : Host.Outcome State Fault Refusal :=
  ifAdmitted .timersvcPoll s timerServicePoll

/-- IRQ (R210, admitted by R246). -/
def execIrq (cause : Cause) (s : State) : Host.Outcome State Fault Refusal :=
  ifAdmitted (.irq cause) s (dispatchCause cause)

/-- POLL (R212). -/
def execPoll (s : State) : Host.Outcome State Fault Refusal := ifAdmitted .poll s pollIteration

end Sys2Proof.Machine
end

