-- ==== Sys2Proof/Machine/Dispatch.lean ====
section
/-! DEFINITION. One arm per constructor of Instr: the meaning of each command. -/

namespace Sys2Proof.Machine

def exec (i : Instr) (s : State) : Host.Outcome State Fault Refusal :=
  match i with
  | .nop => Sys2Proof.Machine.execNop s
  | .encode d => Sys2Proof.Machine.execEncode d s
  | .blank => Sys2Proof.Machine.execBlank s
  | .advance => Sys2Proof.Machine.execAdvance s
  | .setf sel raw => Sys2Proof.Machine.execSetf sel raw s
  | .decomp => Sys2Proof.Machine.execDecomp s
  | .tick => Sys2Proof.Machine.execTick s
  | .render => Sys2Proof.Machine.execRender s
  | .wslot idx pat => Sys2Proof.Machine.execWslot idx pat s
  | .edgesvc => Sys2Proof.Machine.execEdgesvc s
  | .levelsvc => Sys2Proof.Machine.execLevelsvc s
  | .timersvcIrq => Sys2Proof.Machine.execTimersvcIrq s
  | .timersvcPoll => Sys2Proof.Machine.execTimersvcPoll s
  | .irq cause => Sys2Proof.Machine.execIrq cause s
  | .poll => Sys2Proof.Machine.execPoll s
  | .sw sws => Sys2Proof.Machine.execSw sws s
  | .reset => Sys2Proof.Machine.execReset s
  | .timeout => Sys2Proof.Machine.execTimeout s
  | .line v => Sys2Proof.Machine.execLine v s
  | .btn v => Sys2Proof.Machine.execBtn v s

end Sys2Proof.Machine
end

