-- ==== Sys2Proof/Machine/Fetch.lean ====
section
/-! DEFINITION. Where the next command comes from: the head of the command queue. The block has no program
counter and no program store (10_state.md R21, 20_memory.md R70); the queue stands for whoever offers the
commands (log entry 5). -/

namespace Sys2Proof.Machine

/-- The next command word and the state in which it executes, or none when no command is offered. -/
def fetch (s : State) : Option (Word × State) :=
  match s.commands with
  | [] => none
  | w :: rest => some (w, { s with commands := rest })

/-- A word the decoder refuses (R84), by the first two rows of the table of R87. -/
def refuseWord (w : Word) (s : State) : State :=
  s.refuse w (if s.cfg.wellFormed then .rsvEncoding else .config)

/-- A command word put at the head of the queue. -/
def offer (s : State) (w : Word) : State := { s with commands := w :: s.commands }

/-- No command is offered: the block waits (70_reset_and_hazards.md R271, R287; log entry 6). -/
def waits (s : State) : State := s

end Sys2Proof.Machine
end

