-- ==== Sys2Proof/Machine/Step.lean ====
section
/-! DEFINITION. One step of the machine (00_scope.md R15): the next command word is taken, decoded and
executed; a word outside the map is refused; with no command the block waits. -/

namespace Sys2Proof.Machine

/-- One step. -/
def step (s : State) : Host.Outcome State Fault Refusal :=
  match fetch s with
  | none => .next (waits s)
  | some (w, s') =>
    match decode s'.cfg.swW w with
    | .ok i => exec i s'
    | .error _ => .next (refuseWord w s')

/-- The state in which the very next step takes the command word `w` of `nbits` bits (log entry 5). -/
def State.withFetchWord (s : State) (nbits w : Nat) : State :=
  offer s (BitVec.ofNat 16 (w % 2 ^ nbits))

end Sys2Proof.Machine
end

