-- ==== Sys2Proof/Machine/Assembler.lean ====
section
/-! DEFINITION. The assembler syntax of test programs: one command per line (30_encoding.md R89) and the
pseudo-instructions, which expand textually and have no encoding of their own (R90). Nothing the machine
does depends on this file. -/

namespace Sys2Proof.Machine

/-- The mnemonics of R89 and the line pseudo-instructions of R90. -/
inductive Mnemonic
  | nop | encode | blank | advance | setf | decomp | tick | render | wslot | edgesvc | levelsvc
  | timersvcIrq | timersvcPoll | irq | poll | sw | reset | timeout | line | btn
  | tickirq | tickpoll | edge | press
  deriving DecidableEq, Repr

/-- Why a line cannot be assembled (R89: it is not encoded). -/
inductive AsmError
  | unknownMnemonic
  | badNumber
  | operandCount
  /-- "An operand out of its range is an assembly error." -/
  | outOfRange
  /-- `EDGE v` "is valid only when `EDGE_LAYOUT = DISTINCT`". -/
  | needsDistinct
  deriving DecidableEq, Repr

/-- How each mnemonic is written. -/
def spelling : Mnemonic → String
  | .nop => "NOP"
  | .encode => "ENCODE"
  | .blank => "BLANK"
  | .advance => "ADVANCE"
  | .setf => "SETF"
  | .decomp => "DECOMP"
  | .tick => "TICK"
  | .render => "RENDER"
  | .wslot => "WSLOT"
  | .edgesvc => "EDGESVC"
  | .levelsvc => "LEVELSVC"
  | .timersvcIrq => "TIMERSVC.IRQ"
  | .timersvcPoll => "TIMERSVC.POLL"
  | .irq => "IRQ"
  | .poll => "POLL"
  | .sw => "SW"
  | .reset => "RESET"
  | .timeout => "TIMEOUT"
  | .line => "LINE"
  | .btn => "BTN"
  | .tickirq => "TICKIRQ"
  | .tickpoll => "TICKPOLL"
  | .edge => "EDGE"
  | .press => "PRESS"

/-- All mnemonics. -/
def allMnemonics : List Mnemonic :=
  [.nop, .encode, .blank, .advance, .setf, .decomp, .tick, .render, .wslot, .edgesvc, .levelsvc,
    .timersvcIrq, .timersvcPoll, .irq, .poll, .sw, .reset, .timeout, .line, .btn, .tickirq, .tickpoll,
    .edge, .press]

/-- A mnemonic from its letters. -/
def parseMnemonic (cs : List Char) : Except AsmError Mnemonic :=
  match allMnemonics.find? (fun m => (spelling m).toList == cs) with
  | some m => .ok m
  | none => .error .unknownMnemonic

/-- The value of a digit character in base 10 or 16. -/
def digitValue (base : Nat) (ch : Char) : Option Nat :=
  let v :=
    if '0' ≤ ch ∧ ch ≤ '9' then some (ch.toNat - '0'.toNat)
    else if 'a' ≤ ch ∧ ch ≤ 'f' then some (ch.toNat - 'a'.toNat + 10)
    else if 'A' ≤ ch ∧ ch ≤ 'F' then some (ch.toNat - 'A'.toNat + 10)
    else none
  v.filter (fun n => decide (n < base))

/-- The value of digits, the first the most significant, after a value read so far. -/
def digitsValue (base : Nat) : Nat → List Char → Option Nat
  | acc, [] => some acc
  | acc, ch :: rest =>
    match digitValue base ch with
    | some d => digitsValue base (acc * base + d) rest
    | none => none

/-- A number from its digits in a base; no digit is no number. -/
def numberOf (base : Nat) (cs : List Char) : Except AsmError Nat :=
  if cs.isEmpty then .error .badNumber
  else
    match digitsValue base 0 cs with
    | some n => .ok n
    | none => .error .badNumber

/-- A number: decimal, or hexadecimal with the `0x` prefix (R89). -/
def parseNumber (cs : List Char) : Except AsmError Nat :=
  if cs.take 2 == "0x".toList then numberOf 16 (cs.drop 2) else numberOf 10 cs

/-- Characters that separate words. -/
def isSpace (ch : Char) : Bool := ch == ' ' || ch == '\t'

/-- A text without the spaces around it. -/
def trimSpaces (cs : List Char) : List Char :=
  ((cs.dropWhile isSpace).reverse.dropWhile isSpace).reverse

/-- The texts between commas. -/
def splitCommas : List Char → List (List Char)
  | [] => [[]]
  | ch :: rest =>
    if ch = ',' then [] :: splitCommas rest
    else
      match splitCommas rest with
      | [] => [[ch]]
      | piece :: more => (ch :: piece) :: more

/-- The numbers of a list of texts. -/
def parseNumbers : List (List Char) → Except AsmError (List Nat)
  | [] => .ok []
  | piece :: more =>
    match parseNumber (trimSpaces piece), parseNumbers more with
    | .ok n, .ok ns => .ok (n :: ns)
    | .error e, _ => .error e
    | _, .error e => .error e

/-- The operands after a mnemonic: none, or numbers separated by commas (R89). -/
def parseOperands (cs : List Char) : Except AsmError (List Nat) :=
  match trimSpaces cs with
  | [] => .ok []
  | text => parseNumbers (splitCommas text)

/-- A line without operands. -/
def plain (is : List Instr) : List Nat → Except AsmError (List Instr)
  | [] => .ok is
  | _ => .error .operandCount

/-- A line with one operand below a bound (R89: an operand out of its range is not encoded). -/
def oneOperand (bound : Nat) (is : Nat → List Instr) : List Nat → Except AsmError (List Instr)
  | [n] => if n < bound then .ok (is n) else .error .outOfRange
  | _ => .error .operandCount

/-- A line with two operands, each below its bound. -/
def twoOperands (bound bound' : Nat) (is : Nat → Nat → List Instr) :
    List Nat → Except AsmError (List Instr)
  | [n, m] => if n < bound ∧ m < bound' then .ok (is n m) else .error .outOfRange
  | _ => .error .operandCount

/-- The commands of one line with its operands (R89, R90). -/
def lineCommands (c : Config) (m : Mnemonic) : List Nat → Except AsmError (List Instr) :=
  match m with
  | .nop => plain [.nop]
  | .encode => oneOperand 16 fun d => [.encode (BitVec.ofNat 4 d)]
  | .blank => plain [.blank]
  | .advance => plain [.advance]
  | .setf => twoOperands 4 256 fun sel raw => [.setf (BitVec.ofNat 2 sel) (BitVec.ofNat 8 raw)]
  | .decomp => plain [.decomp]
  | .tick => plain [.tick]
  | .render => plain [.render]
  | .wslot => twoOperands 16 256 fun idx pat => [.wslot (BitVec.ofNat 4 idx) (BitVec.ofNat 8 pat)]
  | .edgesvc => plain [.edgesvc]
  | .levelsvc => plain [.levelsvc]
  | .timersvcIrq => plain [.timersvcIrq]
  | .timersvcPoll => plain [.timersvcPoll]
  | .irq => oneOperand 4096 fun cause => [.irq (BitVec.ofNat 12 cause)]
  | .poll => plain [.poll]
  | .sw => oneOperand (2 ^ c.swW) fun s => [.sw (BitVec.ofNat 12 s)]
  | .reset => plain [.reset]
  | .timeout => plain [.timeout]
  | .line => oneOperand 2 fun v => [.line (v == 1)]
  | .btn => oneOperand 2 fun v => [.btn (v == 1)]
  | .tickirq => plain [.timeout, .irq c.causeTimer]
  | .tickpoll => plain [.timeout, .poll]
  | .edge =>
    match c.edgeLayout with
    | .distinct => oneOperand 2 fun v => [.line (v == 1), .irq c.causeEdge]
    | .shared => fun _ => .error .needsDistinct
  | .press => oneOperand (2 ^ c.swW) fun s =>
      [.sw (BitVec.ofNat 12 s), .btn true, .poll, .btn false, .poll]

/-- The mnemonic of a command (R89). -/
def mnemonicOf : Instr → Mnemonic
  | .nop => .nop
  | .encode _ => .encode
  | .blank => .blank
  | .advance => .advance
  | .setf _ _ => .setf
  | .decomp => .decomp
  | .tick => .tick
  | .render => .render
  | .wslot _ _ => .wslot
  | .edgesvc => .edgesvc
  | .levelsvc => .levelsvc
  | .timersvcIrq => .timersvcIrq
  | .timersvcPoll => .timersvcPoll
  | .irq _ => .irq
  | .poll => .poll
  | .sw _ => .sw
  | .reset => .reset
  | .timeout => .timeout
  | .line _ => .line
  | .btn _ => .btn

/-- The operands of a command as its line writes them (R89). -/
def operandsOf : Instr → List Nat
  | .encode d => [d.toNat]
  | .setf sel raw => [sel.toNat, raw.toNat]
  | .wslot idx pat => [idx.toNat, pat.toNat]
  | .irq cause => [cause.toNat]
  | .sw s => [s.toNat]
  | .line v => [v.toNat]
  | .btn v => [v.toNat]
  | .nop | .blank | .advance | .decomp | .tick | .render | .edgesvc | .levelsvc | .timersvcIrq
  | .timersvcPoll | .poll | .reset | .timeout => []

/-- A number written in a base, in at most four digits: no operand needs more (R89). -/
def numeral (base n : Nat) : List Char :=
  if n < base then [Nat.digitChar n]
  else if n < base ^ 2 then [Nat.digitChar (n / base), Nat.digitChar (n % base)]
  else if n < base ^ 3 then
    [Nat.digitChar (n / base ^ 2), Nat.digitChar (n / base % base), Nat.digitChar (n % base)]
  else
    [Nat.digitChar (n / base ^ 3), Nat.digitChar (n / base ^ 2 % base), Nat.digitChar (n / base % base),
      Nat.digitChar (n % base)]

/-- A decimal number (R89). -/
def decimal (n : Nat) : List Char := numeral 10 n

/-- A hexadecimal number, with its prefix (R89). -/
def hexadecimal (n : Nat) : List Char := '0' :: 'x' :: numeral 16 n

/-- The operands of a line after its mnemonic, separated by commas (R89). -/
def operandText (number : Nat → List Char) : List Nat → List Char
  | [] => []
  | ops => ' ' :: ((ops.map number).intersperse [',', ' ']).flatten

/-- The line of a command (R89), its numbers written in the given way. -/
def commandText (number : Nat → List Char) (i : Instr) : List Char :=
  (spelling (mnemonicOf i)).toList ++ operandText number (operandsOf i)

/-- The text of a line before its comment: `;` starts a comment that runs to the end of the line. -/
def withoutComment (cs : List Char) : List Char := trimSpaces (cs.takeWhile (fun ch => ch != ';'))

/-- The commands of one line of text; a line that holds only a comment has none. -/
def assembleLine (c : Config) (text : String) : Except AsmError (List Instr) :=
  match withoutComment text.toList with
  | [] => .ok []
  | cs =>
    match parseMnemonic (cs.takeWhile (fun ch => !isSpace ch)),
        parseOperands (cs.dropWhile (fun ch => !isSpace ch)) with
    | .ok m, .ok ops => lineCommands c m ops
    | .error e, _ => .error e
    | _, .error e => .error e

/-- A test program: lines, and `REPEAT n` blocks of lines (R90). -/
inductive Source
  | line (text : String)
  | repeatBlock (n : Nat) (body : List Source)
  deriving Repr

mutual

/-- The commands of a line, or of a block's `n` copies of its body. -/
def assembleOne (c : Config) : Source → Except AsmError (List Instr)
  | .line text => assembleLine c text
  | .repeatBlock n body =>
    match assembleAll c body with
    | .ok is => .ok (List.replicate n is).flatten
    | .error e => .error e

/-- The commands of a program. -/
def assembleAll (c : Config) : List Source → Except AsmError (List Instr)
  | [] => .ok []
  | a :: rest =>
    match assembleOne c a, assembleAll c rest with
    | .ok is, .ok js => .ok (is ++ js)
    | .error e, _ => .error e
    | _, .error e => .error e

end

/-- The command words of a program. -/
def assemble (c : Config) (program : List Source) : Except AsmError (List Word) :=
  match assembleAll c program with
  | .ok is => .ok (is.map encode)
  | .error e => .error e

end Sys2Proof.Machine
end

