-- ==== Sys2Proof/Safety.lean ====
section
/-! DEFINITION. The terms claims are stated in: the ranges of 10_state.md R29 and the invariant built on
them, the outcome of several commands in a row, what an observer of the display may see (00_scope.md R14),
and infinite runs with the fairness and release premises of 60_exceptions.md R247 and
70_reset_and_hazards.md R275 and R287. -/

namespace Sys2Proof.Machine

/-- The time register is within the moduli (first two points of R29). -/
structure TimeInRange (s : State) : Prop where
  sec : s.r.sec.toNat < 60
  min : s.r.min.toNat < 60
  hms : s.cfg.variant = .hms → s.r.hr.toNat < s.cfg.hmod
  ms  : s.cfg.variant = .ms → s.r.hr = 0#7

/-- The display has `NSLOTS` slots (R20, R24). -/
def SlotsSized (s : State) : Prop := s.r.slots.length = s.cfg.nslots

/-- All five points of R29. -/
structure RegistersInRange (s : State) : Prop where
  time  : TimeInRange s
  tick  : s.r.tick.toNat < s.cfg.divisor
  phase : s.cfg.mode = .irq → s.r.phase = .sample
  hb    : s.r.hb < 2 ^ s.cfg.hbW

/-- The control fields as BOOT leaves them (R33, R280). -/
structure ControlBooted (s : State) : Prop where
  timRun  : s.p.timRun = true
  timCont : s.p.timCont = true
  timIto  : s.p.timIto = (s.cfg.mode == .irq)
  capIe   : s.p.capIe = (s.cfg.mode == .irq && s.cfg.edgeLayout == .distinct)
  ie      : s.p.ie = (s.cfg.mode == .irq)

/-- The control fields before the first RESET (R270). -/
structure ControlCleared (s : State) : Prop where
  timRun  : s.p.timRun = false
  timCont : s.p.timCont = false
  timIto  : s.p.timIto = false
  capIe   : s.p.capIe = false
  ie      : s.p.ie = false

/-- What every step keeps: a well-formed configuration, the number of slots, switch values of `SW_W` bits
in the register and in the schedule, the cleared control fields before the first RESET, and after it the
ranges of R29 and the control fields as BOOT left them. -/
structure Inv (s : State) : Prop where
  cfg      : s.cfg.wellFormed = true
  slots    : SlotsSized s
  sw       : fitsSwitches s.cfg.swW s.p.sw = true
  schedule : ∀ es ∈ s.env, ∀ e ∈ es, e.wellFormed s.cfg.swW = true
  before   : s.r.booted = false → ControlCleared s
  after    : s.r.booted = true → RegistersInRange s ∧ ControlBooted s

/-- Several commands in a row, stopping at an outcome that is no next state. -/
def execAll : List Instr → State → Host.Outcome State Fault Refusal
  | [], s => .next s
  | i :: rest, s =>
    match exec i s with
    | .next t => execAll rest t
    | .fault f => .fault f
    | .refused q => .refused q

/-- The words R84 refuses, written with numbers from the formats of R81: a reserved bit is 1, or class 0xB
has another bit than `m`, or class 0xF has `sub ≥ 4`. -/
def ReservedWord (swW : Nat) (w : Word) : Prop :=
  let op := w.toNat / 4096
  let x := w.toNat % 4096
  (op ∈ [0, 2, 3, 5, 6, 7, 9, 10, 13] ∧ x ≠ 0) ∨ (op = 1 ∧ 16 ≤ x) ∨ (op = 4 ∧ 1024 ≤ x) ∨
    (op = 11 ∧ 2 ≤ x) ∨ (op = 14 ∧ 2 ^ swW ≤ x) ∨
    (op = 15 ∧
      (4 ≤ x / 256 ∨ (x / 256 < 2 ∧ x % 256 ≠ 0) ∨ (2 ≤ x / 256 ∧ x / 256 < 4 ∧ 2 ≤ x % 256)))

/-- The six patterns a render of the current time shows (R160, R164): the digits of seconds, minutes and
hours, the least significant in slot 0, and the hours' slots blank in the two-unit variant. -/
def shownPatterns (s : State) : Vector Byte 6 :=
  let digit (n : Nat) : Byte := enc s.cfg (BitVec.ofNat 4 n)
  let hour (n : Nat) : Byte := match s.cfg.variant with | .hms => digit n | .ms => 0xFF#8
  #v[digit (s.r.sec.toNat % 10), digit (s.r.sec.toNat / 10), digit (s.r.min.toNat % 10),
    digit (s.r.min.toNat / 10), hour (s.r.hr.toNat % 10), hour (s.r.hr.toNat / 10)]

/-- The slots after a render of the current time (R160). -/
def shownSlots (s : State) : List (Option Byte) := (shownPatterns s).toList.map some

/-- The six display writes of a render of the current time, in the order they are issued (R160, R72). -/
def renderAccesses (s : State) : List Access :=
  let b := shownPatterns s
  [.slotWrite 0#4 b[0], .slotWrite 1#4 b[1], .slotWrite 2#4 b[2], .slotWrite 3#4 b[3],
    .slotWrite 4#4 b[4], .slotWrite 5#4 b[5]]

/-- How often a register changes its value in `n` successive ADVANCEs (R121). -/
def changes {α : Type} [DecidableEq α] (f : State → α) : Nat → State → Nat
  | 0, _ => 0
  | n + 1, s => (if f (advance s) = f s then 0 else 1) + changes f n (advance s)

/-- `T` of R121: the time as a number of seconds. -/
def timeNumber (s : State) : Nat := (s.r.hr.toNat * 60 + s.r.min.toNat) * 60 + s.r.sec.toNat

/-- `P` of R121: the number of times the clock can show. -/
def timePeriod (c : Config) : Nat :=
  match c.variant with
  | .hms => 60 * 60 * c.hmod
  | .ms => 3600

/-- An observer of slot `i` may see the byte `b`: the slot's byte, or any byte while it is `UNSET` (R14). -/
def mayObserve (s : State) (i : Nat) (b : Byte) : Prop :=
  s.r.slots[i]? = some (some b) ∨ s.r.slots[i]? = some none

/-- No command of the run so far was refused (R242). -/
def clean (s : State) : Prop := s.refusalMark = false

/-- An infinite run: one command, of the block or of the environment, after another (R287). Each command
comes with the schedule of the environment events that fall inside it (20_memory.md R66), so events inside
operations may go on for ever; what a command's accesses do not reach of its schedule is dropped. -/
structure Run where
  state  : Nat → State
  instr  : Nat → Instr
  events : Nat → List (List EnvEvent)
  next   : ∀ n, exec (instr n) { state n with env := events n } = .next (state (n + 1))

/-- The state command `n` runs in: the state reached, with the command's own schedule of events. -/
def Run.before (ρ : Run) (n : Nat) : State := { ρ.state n with env := ρ.events n }

/-- How many port accesses command `n` makes. -/
def Run.accesses (ρ : Run) (n : Nat) : Nat := (ρ.state (n + 1)).trace.length - (ρ.state n).trace.length

/-- The environment events that happen inside command `n`: those of the turns its accesses reach. -/
def Run.inside (ρ : Run) (n : Nat) : List EnvEvent := ((ρ.events n).take (ρ.accesses n)).flatten

/-- The run takes command `i` at position `n`: it is given and it is admitted. -/
def Run.takes (ρ : Run) (i : Instr) (n : Nat) : Prop :=
  ρ.instr n = i ∧ refusalReason i (ρ.state n) = none

/-- The timer's request is up and interrupts are enabled (R244, R247). -/
def timerRequested (s : State) : Prop := irqTimer s = true ∧ s.p.ie = true

/-- The edge source's request is up and interrupts are enabled (R244, R247). -/
def edgeRequested (s : State) : Prop := irqEdge s = true ∧ s.p.ie = true

/-- Weak fairness (R247): a request that stays pending is taken by an admitted IRQ. It is an assumption on
the environment, not a rule of the step (log entry 17). -/
structure Run.WeaklyFair (ρ : Run) : Prop where
  timer : ∀ n, (∀ m, n ≤ m → timerRequested (ρ.state m)) →
    ∃ m, n ≤ m ∧ ρ.takes (.irq (ρ.state m).cfg.causeTimer) m
  edge : ∀ n, (∀ m, n ≤ m → edgeRequested (ρ.state m)) →
    ∃ m, n ≤ m ∧ ρ.takes (.irq (ρ.state m).cfg.causeEdge) m

/-- The button is released at position `n`: before its command, or by an event inside it. -/
def Run.releasedAt (ρ : Run) (n : Nat) : Prop :=
  (ρ.state n).p.btn = false ∨ EnvEvent.btn false ∈ ρ.inside n

/-- Every press is followed by a release (the premise of R275 and R287). -/
def Run.Releases (ρ : Run) : Prop :=
  ∀ n, (ρ.state n).p.btn = true → ∃ m, n ≤ m ∧ ρ.releasedAt m

end Sys2Proof.Machine
end

