-- ==== Sys2Proof/Certificates/Slice0/Obligations.lean ====
section
/-! DEFINITION. The statements for the provers. Each docstring names the rule of the spec the statement
formalises. A statement over every state is quantified over every configuration (`s.cfg`), every launch
input (`s.p`) and every schedule of environment events inside operations (`s.env`). -/

open Sys2Proof Sys2Proof.Machine

/-! ### Encoding -/

/-- Words written out from the formats of R81 and the classes of R83 decode to the commands they stand
for, V-DEC-8's among them, and the words of V-DEC-1 to V-DEC-7 are refused, each for the case of R84 that
refuses it. -/
def Obligations.WrittenWordsDecode : Prop :=
  decode 10 0b0000000000000000#16 = .ok .nop ∧
  decode 10 0b0001000000001010#16 = .ok (.encode 10#4) ∧
  decode 10 0b0010000000000000#16 = .ok .blank ∧
  decode 10 0b0011000000000000#16 = .ok .advance ∧
  decode 10 0b0100000101001011#16 = .ok (.setf 1#2 75#8) ∧
  decode 10 0b0101000000000000#16 = .ok .decomp ∧
  decode 10 0b0110000000000000#16 = .ok .tick ∧
  decode 10 0b0111000000000000#16 = .ok .render ∧
  decode 10 0b1000010111111001#16 = .ok (.wslot 5#4 0xF9#8) ∧
  decode 10 0b1001000000000000#16 = .ok .edgesvc ∧
  decode 10 0b1010000000000000#16 = .ok .levelsvc ∧
  decode 10 0b1011000000000000#16 = .ok .timersvcIrq ∧
  decode 10 0b1011000000000001#16 = .ok .timersvcPoll ∧
  decode 10 0b1100000000010001#16 = .ok (.irq 17#12) ∧
  decode 10 0b1101000000000000#16 = .ok .poll ∧
  decode 10 0b1110001111111111#16 = .ok (.sw 1023#12) ∧
  decode 10 0b1111000000000000#16 = .ok .reset ∧
  decode 10 0b1111000100000000#16 = .ok .timeout ∧
  decode 10 0b1111001000000001#16 = .ok (.line true) ∧
  decode 10 0b1111001100000001#16 = .ok (.btn true) ∧
  decode 10 0b0000000000000001#16 = .error .reservedBits ∧
  decode 10 0b0011000100000000#16 = .error .reservedBits ∧
  decode 10 0b1011000000000010#16 = .error .timerOperand ∧
  decode 10 0b1111010000000000#16 = .error .reservedSub ∧
  decode 10 0b1111000100000001#16 = .error .reservedBits ∧
  decode 10 0b1111001000000010#16 = .error .reservedBits ∧
  decode 10 0b1110010000000000#16 = .error .reservedBits

/-- R81, R82, R84: under every switch width, the word of a well-formed command decodes to it, whatever
its operands. -/
def Obligations.DecodeOfEncode : Prop :=
  ∀ (swW : Nat) (i : Instr), i.wellFormed swW = true → decode swW (encode i) = .ok i

/-- R84: a word that decodes is the one word of the command it decodes to, and that command is
well-formed. -/
def Obligations.EncodeOfDecode : Prop :=
  ∀ (swW : Nat) (w : Word) (i : Instr),
    decode swW w = .ok i → encode i = w ∧ i.wellFormed swW = true

/-- R84: the decoder refuses a word in exactly the listed cases, and every other word decodes to exactly
one command. A refused word is recorded with `RSV_ENCODING` (R242), and nothing else of the state changes
but that the word is taken. That the refusal is a next state is the model's reading (log entry 4), and that
words are taken from a queue is the model's own (log entry 5). -/
def Obligations.ReservedWordsAreRefused : Prop :=
  ∀ (s : State) (w : Word) (rest : List Word), s.cfg.wellFormed = true → s.commands = w :: rest →
    (ReservedWord s.cfg.swW w →
      step s = .next { s with
        commands := rest
        refusals := s.refusals ++ [{ word := w, reason := .rsvEncoding }] }) ∧
    (¬ ReservedWord s.cfg.swW w → ∃! i, decode s.cfg.swW w = .ok i)

/-- R86, for every switch width: the numbers of accepted words, class by class, and for `SW_W = 10` their
total. -/
def Obligations.AcceptedWordCounts : Prop :=
  let accepted (swW k : Nat) : Nat :=
    (List.range 4096).countP fun x => (decode swW (BitVec.ofNat 16 (k * 4096 + x))).isOk
  (∀ swW, swW ≤ 12 → (List.range 16).map (accepted swW) =
      [1, 16, 1, 1, 1024, 1, 1, 1, 4096, 1, 1, 2, 4096, 1, 2 ^ swW, 1 + 1 + 2 + 2]) ∧
    ((List.range 16).map (accepted 10)).sum = 10273

/-! ### Configuration, the step, admission and refusal -/

/-- R7, R8, R243: which configurations are well formed. The numeric domains of R7 are checked in every
build, also where R7 says a field is unused (log entry 14: the model's choice). The parameters with one
value have that value. `TIMER_PERIOD` and `TIMER_PERIOD_CYCLES` are not restricted (log entry 15: the
model's choice). -/
def Obligations.WellFormedConfigurations : Prop :=
  ∀ c : Config, c.wellFormed = true ↔
    (c.selLsb + 2 ≤ c.swW ∧ c.valLsb + 6 ≤ c.swW) ∧
    (∀ i j : Nat, i < 2 → j < 6 → c.selLsb + i ≠ c.valLsb + j) ∧
    (c.edgeLayout = .distinct → c.causeEdge ≠ c.causeTimer) ∧
    (c.initTime.sec < 60 ∧ c.initTime.min < 60 ∧
      (c.variant = .hms → c.initTime.hr < c.hmod) ∧ (c.variant = .ms → c.initTime.hr = 0)) ∧
    (∀ i : Fin 10, 128 ≤ (c.encTable[i]).toNat) ∧
    (1 ≤ c.divisor ∧ c.divisor ≤ 15) ∧
    ((c.hmod = 24 ∨ c.hmod = 100) ∧ (c.edgeAdv = 1 ∨ c.edgeAdv = 2) ∧ (8 ≤ c.swW ∧ c.swW ≤ 12) ∧
      1 ≤ c.hbW) ∧
    (c.smod = 60 ∧ c.mmod = 60 ∧ c.nslots = 6 ∧ c.slotW = 8 ∧ c.selW = 2 ∧ c.valW = 6)

/-- R8, R87 first row: under an ill-formed configuration every command word, RESET's among them, is
refused with `CONFIG` and does not execute. That the refusal is a next state recorded in the log (log entry
4), that a word which does not decode gets `CONFIG` too (log entry 12) and that words are taken from a queue
(log entry 5) are the model's readings. -/
def Obligations.IllFormedConfigurationRefuses : Prop :=
  ∀ (s : State) (w : Word) (rest : List Word), s.cfg.wellFormed = false → s.commands = w :: rest →
    step s = .next { s with
      commands := rest
      refusals := s.refusals ++ [{ word := w, reason := .config }] }

/-- A step takes the next command word and runs what it decodes to, in the state with the word taken; so
it does with a word put where the step fetches. The queue the words come from, and withFetchWord, are the
model's own (log entry 5, DESIGN CHOICE). -/
def Obligations.StepRunsDecodedCommand : Prop :=
  (∀ (s : State) (w : Word) (rest : List Word) (i : Instr),
    s.commands = w :: rest → decode s.cfg.swW w = .ok i →
      step s = exec i { s with commands := rest }) ∧
  (∀ (s : State) (w : Word) (i : Instr),
    decode s.cfg.swW w = .ok i → step (s.withFetchWord 16 w.toNat) = exec i s)

/-- R271 ("the block then waits for its first command") read for every moment at which no command is
offered: the step changes nothing (log entry 6: the model's reading). -/
def Obligations.NoCommandLeavesStateAlone : Prop :=
  ∀ s : State, s.commands = [] → step s = .next s

/-- R87: the admission table, top to bottom, with the pending requests of R244 and R246. A refused command
is recorded with the first matching row's reason and nothing else changes (R242; that this is a next state
is log entry 4, the model's reading); a command that matches no row is admitted. An SW operand wider than
`SW_W`, which no word carries, is given to exec only by a statement like this one, and is refused as a
reserved encoding (log entry 12, the model's reading). -/
def Obligations.AdmissionTable : Prop :=
  ∀ (i : Instr) (s : State),
    let refusedWith (why : Reason) : Prop :=
      exec i s = .next { s with refusals := s.refusals ++ [{ word := encode i, reason := why }] }
    let early : Prop := i = .reset ∨ (∃ v, i = .line v) ∨ (∃ v, i = .btn v) ∨ (∃ x, i = .sw x)
    let ofIrq : Prop := (∃ c, i = .irq c) ∨ i = .edgesvc ∨ i = .timersvcIrq
    let ofPoll : Prop := i = .poll ∨ i = .levelsvc ∨ i = .timersvcPoll
    let other : Prop := (ofIrq ∧ s.cfg.mode ≠ .irq) ∨ (ofPoll ∧ s.cfg.mode ≠ .poll)
    let notPending (c : Cause) : Prop :=
      (c = s.cfg.causeTimer ∧ ¬(s.p.timeout = true ∧ s.p.timIto = true)) ∨
        (c ≠ s.cfg.causeTimer ∧ s.cfg.edgeLayout = .distinct ∧ c = s.cfg.causeEdge ∧
          ¬(s.p.cap = true ∧ s.p.capIe = true))
    (s.cfg.wellFormed = false → refusedWith .config) ∧
    (s.cfg.wellFormed = true →
      (i.wellFormed s.cfg.swW = false → refusedWith .rsvEncoding) ∧
      (i.wellFormed s.cfg.swW = true →
        (s.r.booted = false ∧ ¬early → refusedWith .notReset) ∧
        (s.r.booted = true ∨ early →
          (other → refusedWith .wrongMode) ∧
          (¬other →
            (∀ c, i = .irq c →
              (s.p.ie = false → refusedWith .irqDisabled) ∧
              (s.p.ie = true → notPending c → refusedWith .irqNotPending) ∧
              (s.p.ie = true → ¬notPending c → refusalReason i s = none)) ∧
            ((∀ c, i ≠ .irq c) → refusalReason i s = none)))))

/-- R242: a refused command does not execute: the word and the reason, of codes 1 to 6, are recorded, and
the mark stays for the rest of the run. The order of the log is kept. That a refusal is a next state is the
model's reading (log entry 4). -/
def Obligations.RefusalMarkPersists : Prop :=
  (∀ (i : Instr) (s : State) (why : Reason), refusalReason i s = some why →
    exec i s = .next { s with refusals := s.refusals ++ [{ word := encode i, reason := why }] }) ∧
  (∀ s t : State, step s = .next t →
    (∃ more, t.refusals = s.refusals ++ more ∧ more.length ≤ 1) ∧
      (s.refusalMark = true → t.refusalMark = true)) ∧
  [Reason.config, .rsvEncoding, .notReset, .wrongMode, .irqDisabled, .irqNotPending].map Reason.code =
    [1, 2, 3, 4, 5, 6]

/-- R240, R243, R215: no step faults, and the block never stops by itself. That a refused command is a next
state and no refusal in the host's sense is the model's reading (log entry 4), and so is the step with no
command offered (log entry 6). -/
def Obligations.EveryStepAnswersNextState : Prop :=
  ∀ s : State, ∃ t, step s = .next t

/-! ### Invariants -/

/-- R29, with the number of slots (R24), the control fields of R33 and the switch width of R38: every step
keeps them. The width of scheduled switch values is a condition on the model's own schedule (log entry 7). -/
def Obligations.EveryStepKeepsInvariant : Prop :=
  ∀ s t : State, Inv s → step s = .next t → Inv t

/-- The invariant holds right after reset, and at power-on and after the first RESET for every well-formed
configuration and launch inputs. -/
def Obligations.InvariantHoldsAtStart : Prop :=
  Inv State.reset ∧
  ∀ (c : Config) (line btn : Bool) (x : Switches), c.wellFormed = true → fitsSwitches c.swW x = true →
    Inv (State.powerOn c line btn x) ∧ Inv (State.resetWith c line btn x)

/-- R7, R70: no step changes the configuration. No command changes the queue of commands, and a step takes
its first word: the queue is the model's own (log entry 5, DESIGN CHOICE). -/
def Obligations.ConfigurationIsFixed : Prop :=
  (∀ s t : State, step s = .next t → t.cfg = s.cfg ∧ t.commands = s.commands.tail) ∧
  (∀ (i : Instr) (s t : State), exec i s = .next t → t.cfg = s.cfg ∧ t.commands = s.commands)

/-- R39, R42, R250: no command but RESET writes a control field, and none but RESET writes `booted`. -/
def Obligations.OnlyResetWritesControlFields : Prop :=
  ∀ (i : Instr) (s t : State), i ≠ .reset → exec i s = .next t →
    t.p.timRun = s.p.timRun ∧ t.p.timCont = s.p.timCont ∧ t.p.timIto = s.p.timIto ∧
    t.p.capIe = s.p.capIe ∧ t.p.ie = s.p.ie ∧ t.r.booted = s.r.booted

/-- R28, R220: `booted` is 0 at power-on, every executed RESET leaves it 1, it stays 1 once it is 1, and
nothing but an executed RESET makes it 1. The last clause says the same of a step, whose word comes from the
queue, which is the model's own (log entry 5, DESIGN CHOICE). -/
def Obligations.BootedOnceReset : Prop :=
  (∀ (c : Config) (line btn : Bool) (x : Switches), (State.powerOn c line btn x).r.booted = false) ∧
  (∀ s : State, s.cfg.wellFormed = true → ∃ t, exec .reset s = .next t ∧ t.r.booted = true) ∧
  (∀ (i : Instr) (s t : State), exec i s = .next t → s.r.booted = true → t.r.booted = true) ∧
  (∀ (i : Instr) (s t : State), exec i s = .next t → s.r.booted = false → t.r.booted = true →
    i = .reset ∧ refusalReason i s = none) ∧
  (∀ s t : State, step s = .next t → s.r.booted = true → t.r.booted = true) ∧
  (∀ s t : State, step s = .next t → s.r.booted = false → t.r.booted = true →
    ∃ rest, s.commands = 0xF000#16 :: rest)

/-! ### The digit encoder -/

/-- R100: ENCODE shows the table's pattern for a digit 0 to 9 and `ENC_HI`'s for 10 to 15, and changes
nothing but `r.res`. -/
def Obligations.EncodeShowsPattern : Prop :=
  ∀ s : State, s.cfg.wellFormed = true → s.r.booted = true →
    (∀ k : Fin 10, exec (.encode (BitVec.ofNat 4 k)) s =
      .next { s with r := { s.r with res := BitVec.ofNat 32 (s.cfg.encTable[k]).toNat } }) ∧
    (∀ k : Fin 6, exec (.encode (BitVec.ofNat 4 (10 + k))) s =
      .next { s with r := { s.r with res := BitVec.ofNat 32 (s.cfg.encHi[k]).toNat } }) ∧
    (∀ k : Fin 16, encode (.encode (BitVec.ofNat 4 k)) = BitVec.ofNat 16 (0x1000 + k))

/-- R103: BLANK shows `0xFF` and changes nothing but `r.res`. -/
def Obligations.BlankShowsAllOff : Prop :=
  ∀ s : State, s.cfg.wellFormed = true → s.r.booted = true →
    exec .blank s = .next { s with r := { s.r with res := 0x000000FF#32 } } ∧
    encode .blank = 0x2000#16

/-! ### The time register -/

/-- R120: ADVANCE, with its carries, and nothing but the three units written. -/
def Obligations.AdvanceCascades : Prop :=
  encode .advance = 0x3000#16 ∧
  ∀ s : State, s.cfg.wellFormed = true → s.r.booted = true →
    let sec := s.r.sec.toNat + 1
    let min := s.r.min.toNat + 1
    exec .advance s = .next { s with
      r := { s.r with
        sec := if sec < 60 then BitVec.ofNat 6 sec else 0#6
        min := if sec < 60 then s.r.min else if min < 60 then BitVec.ofNat 6 min else 0#6
        hr :=
          if sec < 60 ∨ min < 60 ∨ s.cfg.variant = .ms then s.r.hr
          else BitVec.ofNat 7 ((s.r.hr.toNat + 1) % s.cfg.hmod) } }

/-- R121: `n` ADVANCEs add `n` to the time modulo the period; 60 of them change the minute exactly once,
and 3600 of them change the hour exactly once, by one. -/
def Obligations.AdvanceCountingLaw : Prop :=
  ∀ s : State, s.cfg.wellFormed = true → s.r.booted = true → TimeInRange s →
    (∀ n, ∃ t, execAll (List.replicate n .advance) s = .next t ∧
      timeNumber t = (timeNumber s + n) % timePeriod s.cfg ∧ TimeInRange t) ∧
    changes (fun u => u.r.min) 60 s = 1 ∧
    (s.cfg.variant = .hms →
      changes (fun u => u.r.hr) 3600 s = 1 ∧
      ∃ t, execAll (List.replicate 3600 .advance) s = .next t ∧
        t.r.hr.toNat = (s.r.hr.toNat + 1) % s.cfg.hmod)

/-- R122 with the selector table of R91: SETF writes the selected unit with the raw value reduced by the
unit's modulus; selector 0, and selector 3 in the two-unit variant, write nothing. -/
def Obligations.SetfWritesOneUnit : Prop :=
  (∀ (sel : BitVec 2) (raw : Byte),
    (encode (.setf sel raw)).toNat = 0x4000 + sel.toNat * 256 + raw.toNat) ∧
  ∀ (s : State) (sel : BitVec 2) (raw : Byte), s.cfg.wellFormed = true → s.r.booted = true →
    exec (.setf sel raw) s = .next { s with
      r := { s.r with
        sec := if sel = 1#2 then BitVec.ofNat 6 (raw.toNat % 60) else s.r.sec
        min := if sel = 2#2 then BitVec.ofNat 6 (raw.toNat % 60) else s.r.min
        hr :=
          if sel = 3#2 ∧ s.cfg.variant = .hms then BitVec.ofNat 7 (raw.toNat % s.cfg.hmod)
          else s.r.hr } }

/-- R124: DECOMP shows the digit count and the six digits, least significant lowest, and writes nothing
else. The digits are the decimal digits of the units, so the units can be read back from them, and with the
time in range they keep the bounds of the rule. -/
def Obligations.DecompShowsDigits : Prop :=
  encode .decomp = 0x5000#16 ∧
  ∀ s : State, s.cfg.wellFormed = true → s.r.booted = true →
    let n := match s.cfg.variant with | .hms => 6 | .ms => 4
    let sec := s.r.sec.toNat
    let min := s.r.min.toNat
    let hr := s.r.hr.toNat
    ∃ t, exec .decomp s = .next t ∧ t = { s with r := { s.r with res := t.r.res } } ∧
      t.r.res.toNat = n * 16777216 + (hr / 10) * 1048576 + (hr % 10) * 65536 + (min / 10) * 4096 +
        (min % 10) * 256 + (sec / 10) * 16 + sec % 10 ∧
      (decompose s).map BitVec.toNat =
        [sec % 10, sec / 10, min % 10, min / 10, hr % 10, hr / 10].take n ∧
      (sec = 10 * (sec / 10) + sec % 10 ∧ min = 10 * (min / 10) + min % 10 ∧
        hr = 10 * (hr / 10) + hr % 10) ∧
      (TimeInRange s → (∀ d ∈ decompose s, d.toNat ≤ 9) ∧ sec / 10 ≤ 5 ∧ min / 10 ≤ 5 ∧
        (s.cfg.hmod = 24 → hr / 10 ≤ 2) ∧ (s.cfg.variant = .ms → hr = 0))

/-- R32: the packed view is the time in decimal nibbles; in the two-unit variant its top byte is 0. -/
def Obligations.PackedViewIsDecimal : Prop :=
  ∀ s : State, TimeInRange s →
    (timePacked s.r).toNat =
      (s.r.hr.toNat / 10) * 1048576 + (s.r.hr.toNat % 10) * 65536 + (s.r.min.toNat / 10) * 4096 +
        (s.r.min.toNat % 10) * 256 + (s.r.sec.toNat / 10) * 16 + s.r.sec.toNat % 10 ∧
    (s.cfg.variant = .ms → (timePacked s.r).extractLsb' 16 8 = 0#8)

/-! ### The rate divider -/

/-- R140: TICK increments the counter, wraps at `DIVISOR` and shows whether it wrapped; the time is not
touched. -/
def Obligations.TickDivides : Prop :=
  encode .tick = 0x6000#16 ∧
  ∀ s : State, s.cfg.wellFormed = true → s.r.booted = true →
    exec .tick s = .next { s with
      r := { s.r with
        tick :=
          if s.r.tick.toNat + 1 = s.cfg.divisor then 0#4 else BitVec.ofNat 4 (s.r.tick.toNat + 1)
        res := if s.r.tick.toNat + 1 = s.cfg.divisor then 1#32 else 0#32 } }

/-- R143: from `tick = c` the `k`-th TICK wraps exactly when `DIVISOR` divides `c + k`, and leaves
`(c + k) mod DIVISOR`. -/
def Obligations.TickCountingLaw : Prop :=
  ∀ (s : State) (k : Nat), s.cfg.wellFormed = true → s.r.booted = true →
    s.r.tick.toNat < s.cfg.divisor → 1 ≤ k →
    ∃ t, execAll (List.replicate k .tick) s = .next t ∧
      t.r.tick.toNat = (s.r.tick.toNat + k) % s.cfg.divisor ∧
      t.r.res = if (s.r.tick.toNat + k) % s.cfg.divisor = 0 then 1#32 else 0#32

/-! ### The display -/

/-- R160, R164: RENDER overwrites all six slots with the patterns of the current time, in six display
writes in ascending order, and writes no other register. Before each display write the scheduled
environment events happen (R66). -/
def Obligations.RenderShowsTime : Prop :=
  encode .render = 0x7000#16 ∧
  ∀ s : State, s.cfg.wellFormed = true → s.r.booted = true → SlotsSized s →
    exec .render s = .next { interludes 6 s with
      r := { s.r with slots := shownSlots s }
      trace := s.trace ++ renderAccesses s }

/-- R161: a second RENDER changes no register, and the slots depend on nothing but the units and the
configuration. -/
def Obligations.RenderIsIdempotent : Prop :=
  (∀ s t : State, s.cfg.wellFormed = true → s.r.booted = true → SlotsSized s →
    exec .render s = .next t → ∃ u, exec .render t = .next u ∧ u.r = t.r) ∧
  (∀ s s' t t' : State, s.cfg.wellFormed = true → s.r.booted = true → s'.r.booted = true →
    SlotsSized s → SlotsSized s' → s'.cfg = s.cfg →
    s'.r.sec = s.r.sec → s'.r.min = s.r.min → s'.r.hr = s.r.hr →
    exec .render s = .next t → exec .render s' = .next t' → t'.r.slots = t.r.slots)

/-- R162: with the time in range, RENDER shows entries of `ENC_TABLE` in the variant's slots and blank
in the rest, and never reads `ENC_HI`. -/
def Obligations.RenderUsesDigitTableOnly : Prop :=
  ∀ s : State, s.cfg.wellFormed = true → s.r.booted = true → TimeInRange s → SlotsSized s →
    let n := match s.cfg.variant with | .hms => 6 | .ms => 4
    ∃ t, exec .render s = .next t ∧
      (∀ i : Nat, i < n → ∃ k : Fin 10, t.r.slots[i]? = some (some s.cfg.encTable[k])) ∧
      (∀ i : Nat, n ≤ i → i < 6 → t.r.slots[i]? = some (some 0xFF#8)) ∧
      ∀ hi : Vector Byte 6, ∃ u,
        exec .render { s with cfg := { s.cfg with encHi := hi } } = .next u ∧ u.r = t.r

/-- R163, R165: WSLOT writes slot `idx` for 0 to 5; an index of 6 or more changes no slot (R63: no trap,
no wrap). -/
def Obligations.WslotWritesOneSlot : Prop :=
  (∀ (idx : BitVec 4) (pat : Byte),
    (encode (.wslot idx pat)).toNat = 0x8000 + idx.toNat * 256 + pat.toNat) ∧
  ∀ (s : State) (idx : BitVec 4) (pat : Byte), s.cfg.wellFormed = true → s.r.booted = true →
    SlotsSized s → ∃ t, exec (.wslot idx pat) s = .next t ∧
      t = { interlude s with
        r := { s.r with slots := t.r.slots }
        trace := s.trace ++ [.slotWrite idx pat] } ∧
      t.r.slots.length = 6 ∧
      ∀ j : Nat, j < 6 →
        t.r.slots[j]? = if j = idx.toNat then some (some pat) else s.r.slots[j]?

/-- R14, R162: after RESET an observer of any slot may see any byte; after a RENDER only the pattern
shown. -/
def Obligations.ObservedSlots : Prop :=
  ∀ s t u : State, s.cfg.wellFormed = true → exec .reset s = .next t → exec .render t = .next u →
    ∀ (i : Fin 6) (b : Byte), mayObserve t i b ∧ (mayObserve u i b ↔ b = (shownPatterns t)[i])

/-! ### The input edge detector -/

/-- R180 with R181 and R182: the three paths of EDGESVC. The capture bit is read, acknowledged before any
other access where it was seen set, the level sampled and latched, and an active level advances
`EDGE_ADV` times and renders. Scheduled events happen before each access. -/
def Obligations.EdgeServicePaths : Prop :=
  encode .edgesvc = 0x9000#16 ∧
  ∀ s : State, s.cfg.wellFormed = true → s.r.booted = true → s.cfg.mode = .irq →
    let a := interlude s
    let b := interlude a
    let c := interlude { b with p := { b.p with cap := false } }
    (a.p.cap = false →
      exec .edgesvc s = .next { a with trace := s.trace ++ [.readCap false] }) ∧
    (a.p.cap = true → c.p.line = false →
      exec .edgesvc s = .next { c with
        r := { s.r with latchLevel := false }
        trace := s.trace ++ [.readCap true, .ackCap true, .readLine false] }) ∧
    (a.p.cap = true → c.p.line = true →
      exec .edgesvc s = .next (render (advanceTimes s.cfg.edgeAdv { c with
        r := { s.r with latchLevel := true }
        trace := s.trace ++ [.readCap true, .ackCap true, .readLine true] })))

/-- R184: one EDGESVC that reads the capture bit set and samples the line active makes exactly one
`CAP_ACK`, the effect of exactly `EDGE_ADV` ADVANCEs on the time, and exactly six display writes. Its
accesses are the capture read, the acknowledgement, the level sample and then the render's six writes, with
scheduled events before each. No other register changes: `tick`, `hb`, `phase` and `res` stay as they
were. -/
def Obligations.EdgeServiceCallCounts : Prop :=
  ∀ s : State, s.cfg.wellFormed = true → s.r.booted = true → s.cfg.mode = .irq → SlotsSized s →
    let a := interlude s
    let b := interlude a
    let c := interlude { b with p := { b.p with cap := false } }
    a.p.cap = true → c.p.line = true →
    ∃ t u more, exec .edgesvc s = .next t ∧
      execAll (List.replicate s.cfg.edgeAdv .advance) s = .next u ∧
      t = { interludes 6 c with
        r := { s.r with
          sec := u.r.sec
          min := u.r.min
          hr := u.r.hr
          latchLevel := true
          slots := shownSlots u }
        trace := s.trace ++ more } ∧
      more.take 3 = [.readCap true, .ackCap true, .readLine true] ∧
      more.drop 3 = renderAccesses u ∧
      more.countP (fun x => x == .ackCap true) = 1 ∧
      more.countP (fun x => match x with | .slotWrite _ _ => true | _ => false) = 6

/-- R185: the four paths of LEVELSVC and its result `proceed`. Each takes one sample of the button; the
press step reads the switches once, sets the selected unit, renders, and waits for the release. -/
def Obligations.LevelServicePaths : Prop :=
  encode .levelsvc = 0xA000#16 ∧
  ∀ s : State, s.cfg.wellFormed = true → s.r.booted = true → s.cfg.mode = .poll →
    let a := interlude s
    let b := interlude a
    let sel := b.p.sw.extractLsb' s.cfg.selLsb 2
    let raw := b.p.sw.extractLsb' s.cfg.valLsb 6
    (levelService s).1 = !a.p.btn ∧
    (s.r.phase = .sample → a.p.btn = false →
      exec .levelsvc s = .next { a with trace := s.trace ++ [.readBtn false] }) ∧
    (s.r.phase = .sample → a.p.btn = true →
      ∃ t, t = render (setField sel.toNat raw.toNat { b with
          trace := s.trace ++ [.readBtn true, .readSwitches b.p.sw] }) ∧
        exec .levelsvc s = .next { t with r := { t.r with phase := .waitRelease } }) ∧
    (s.r.phase = .waitRelease → a.p.btn = true →
      exec .levelsvc s = .next { a with trace := s.trace ++ [.readBtn true] }) ∧
    (s.r.phase = .waitRelease → a.p.btn = false →
      exec .levelsvc s = .next { a with
        r := { s.r with phase := .sample }
        trace := s.trace ++ [.readBtn false] })

/-- R186, R275: while the button is not released, any number of POLLs change no register and no platform
field: the timer is not looked at, and the spin has no end of its own. -/
def Obligations.SpinWithoutReleaseServicesNothing : Prop :=
  ∀ (s : State) (n : Nat), s.cfg.wellFormed = true → s.r.booted = true → s.cfg.mode = .poll →
    s.r.phase = .waitRelease → s.p.btn = true →
    (∀ es ∈ s.env, EnvEvent.btn false ∉ es) →
    ∃ t, execAll (List.replicate n .poll) s = .next t ∧ t.r = s.r ∧ t.refusals = s.refusals ∧
      t.p.btn = true ∧ (s.p.timeout = true → t.p.timeout = true) ∧ (s.env = [] → t.p = s.p) ∧
      t.trace = s.trace ++ List.replicate n (.readBtn true)

/-! ### The event dispatcher -/

/-- R200: TIMERSVC.IRQ acknowledges first, without testing the flag, then ticks; on a wrap it advances
and renders. -/
def Obligations.TimerServiceIrqPaths : Prop :=
  encode .timersvcIrq = 0xB000#16 ∧
  ∀ s : State, s.cfg.wellFormed = true → s.r.booted = true → s.cfg.mode = .irq →
    let a := interlude s
    let b : State := { a with p := { a.p with timeout := false }, trace := s.trace ++ [.ackTimer] }
    (s.r.tick.toNat + 1 ≠ s.cfg.divisor →
      exec .timersvcIrq s =
        .next { b with r := { s.r with tick := BitVec.ofNat 4 (s.r.tick.toNat + 1) } }) ∧
    (s.r.tick.toNat + 1 = s.cfg.divisor →
      exec .timersvcIrq s = .next (render (advance { b with r := { s.r with tick := 0#4 } })))

/-- R201 with R26: TIMERSVC.POLL tests the flag; if it is set, it acknowledges, beats, ticks, and on a
wrap advances and renders. -/
def Obligations.TimerServicePollPaths : Prop :=
  encode .timersvcPoll = 0xB001#16 ∧
  ∀ s : State, s.cfg.wellFormed = true → s.r.booted = true → s.cfg.mode = .poll →
    let a := interlude s
    let b := interlude a
    let hb := (s.r.hb + 1) % 2 ^ s.cfg.hbW
    let c : State := { b with
      p := { b.p with timeout := false }
      trace := s.trace ++ [.readTimerStatus true, .ackTimer] }
    (a.p.timeout = false →
      exec .timersvcPoll s = .next { a with trace := s.trace ++ [.readTimerStatus false] }) ∧
    (a.p.timeout = true → s.r.tick.toNat + 1 ≠ s.cfg.divisor →
      exec .timersvcPoll s =
        .next { c with r := { s.r with hb := hb, tick := BitVec.ofNat 4 (s.r.tick.toNat + 1) } }) ∧
    (a.p.timeout = true → s.r.tick.toNat + 1 = s.cfg.divisor →
      exec .timersvcPoll s =
        .next (render (advance { c with r := { s.r with hb := hb, tick := 0#4 } })))

/-- R210: what an admitted IRQ runs: for the timer's cause the timer path, and in SHARED the edge channel
after it; for the edge's cause in DISTINCT the edge channel; for any other cause nothing. -/
def Obligations.IrqDispatchesCause : Prop :=
  (∀ c : Cause, (encode (.irq c)).toNat = 0xC000 + c.toNat) ∧
  ∀ (s : State) (c : Cause), s.cfg.wellFormed = true → s.r.booted = true → s.cfg.mode = .irq →
    s.p.ie = true →
    (c = s.cfg.causeTimer → s.p.timeout = true → s.p.timIto = true →
      ∃ t, exec .timersvcIrq s = .next t ∧
        (s.cfg.edgeLayout = .distinct → exec (.irq c) s = .next t) ∧
        (s.cfg.edgeLayout = .shared → ∃ u, exec .edgesvc t = .next u ∧ exec (.irq c) s = .next u)) ∧
    (c ≠ s.cfg.causeTimer → s.cfg.edgeLayout = .distinct → c = s.cfg.causeEdge → s.p.cap = true →
      s.p.capIe = true → ∃ t, exec .edgesvc s = .next t ∧ exec (.irq c) s = .next t) ∧
    (c ≠ s.cfg.causeTimer → (s.cfg.edgeLayout = .distinct → c ≠ s.cfg.causeEdge) →
      exec (.irq c) s = .next s)

/-- R246: when an IRQ is admitted; otherwise it is refused with a reason, which is recorded, and nothing
else changes (R242). Which reason it is, AdmissionTable says. That the refusal is a next state is the model's
reading (log entry 4). -/
def Obligations.IrqAdmission : Prop :=
  ∀ (s : State) (c : Cause), s.cfg.wellFormed = true →
    (refusalReason (.irq c) s = none ↔
      s.cfg.mode = .irq ∧ s.r.booted = true ∧ s.p.ie = true ∧
      (c = s.cfg.causeTimer → irqTimer s = true) ∧
      (s.cfg.edgeLayout = .distinct → c = s.cfg.causeEdge → irqEdge s = true)) ∧
    (refusalReason (.irq c) s ≠ none → ∃ why,
      why ∈ [Reason.notReset, .wrongMode, .irqDisabled, .irqNotPending] ∧
      exec (.irq c) s =
        .next { s with refusals := s.refusals ++ [{ word := encode (.irq c), reason := why }] })

/-- R212: POLL samples the button first. On a press step and on a spin step it is LEVELSVC alone; on the
other steps TIMERSVC.POLL follows. -/
def Obligations.PollSamplesButtonFirst : Prop :=
  encode .poll = 0xD000#16 ∧
  ∀ s : State, s.cfg.wellFormed = true → s.r.booted = true → s.cfg.mode = .poll →
    ∃ t, exec .levelsvc s = .next t ∧
      ((interlude s).p.btn = true → exec .poll s = .next t) ∧
      ((interlude s).p.btn = false →
        ∃ u, exec .timersvcPoll t = .next u ∧ exec .poll s = .next u)

/-- R214: NOP changes nothing. Before the first RESET it is refused: recorded, and nothing else changes
(R87, R242; that this is a next state is the model's reading, log entry 4). -/
def Obligations.NopDoesNothing : Prop :=
  encode .nop = 0x0000#16 ∧
  ∀ s : State, s.cfg.wellFormed = true →
    (s.r.booted = true → exec .nop s = .next s) ∧
    (s.r.booted = false → exec .nop s =
      .next { s with refusals := s.refusals ++ [{ word := 0x0000#16, reason := .notReset }] })

/-- R213: with a press and a timeout in the same source iteration both apply, button effects first. The
press step sets the unit that the switches select, as SETF does, renders, and leaves the timer pending; the
release step services it: it ticks, and on a wrap it advances that time and renders. This is said of an
iteration with no event inside its two POLLs (the schedule is empty); LevelServicePaths and
TimerServicePollPaths speak of the others. -/
def Obligations.ButtonEffectsFirst : Prop :=
  ∀ s : State, s.cfg.wellFormed = true → s.r.booted = true → s.cfg.mode = .poll → SlotsSized s →
    s.env = [] → s.r.phase = .sample → s.p.btn = true → s.p.timeout = true →
    let sel := s.p.sw.extractLsb' s.cfg.selLsb 2
    let raw := s.p.sw.extractLsb' s.cfg.valLsb 6
    ∃ set t u adv v, exec (.setf sel (raw.setWidth 8)) s = .next set ∧
      exec .poll s = .next t ∧ exec (.btn false) t = .next u ∧ exec .advance u = .next adv ∧
      exec .poll u = .next v ∧
      t.r = { set.r with slots := shownSlots set, phase := .waitRelease } ∧ t.p = s.p ∧
      v.p = { s.p with btn := false, timeout := false } ∧
      (s.r.tick.toNat + 1 ≠ s.cfg.divisor → v.r = { t.r with
        phase := .sample
        hb := (s.r.hb + 1) % 2 ^ s.cfg.hbW
        tick := BitVec.ofNat 4 (s.r.tick.toNat + 1) }) ∧
      (s.r.tick.toNat + 1 = s.cfg.divisor → v.r = { adv.r with
        phase := .sample
        hb := (s.r.hb + 1) % 2 ^ s.cfg.hbW
        tick := 0#4
        slots := shownSlots adv })

/-! ### Reset and environment events -/

/-- R220 with BOOT (R280) and the reset values of R31: what RESET leaves, from every state. That it leaves
the refusal log, the queue, the schedule and the trace as they are is the model's reading (log entry 9). -/
def Obligations.ResetLeaves : Prop :=
  encode .reset = 0xF000#16 ∧
  ∀ s : State, s.cfg.wellFormed = true →
    exec .reset s = .next { s with
      r :=
        { booted := true
          sec := BitVec.ofNat 6 s.cfg.initTime.sec
          min := BitVec.ofNat 6 s.cfg.initTime.min
          hr := BitVec.ofNat 7 s.cfg.initTime.hr
          tick := 0#4
          slots := [none, none, none, none, none, none]
          phase := .sample
          hb := 0
          latchLevel := false
          res := 0#32 }
      p := { s.p with
        timeout := false
        cap := false
        timRun := true
        timCont := true
        timIto := s.cfg.mode == .irq
        capIe := s.cfg.mode == .irq && s.cfg.edgeLayout == .distinct
        ie := s.cfg.mode == .irq } }

/-- R271: the model's reset states are the ones RESET leaves from power-on. The configuration and the
launch inputs of State.reset are the model's choice (log entries 2 and 3). -/
def Obligations.ResetFromPowerOn : Prop :=
  (∀ (c : Config) (line btn : Bool) (x : Switches), c.wellFormed = true →
    exec .reset (State.powerOn c line btn x) = .next (State.resetWith c line btn x)) ∧
  State.reset = State.resetWith (Config.tp1 { hr := 0, min := 0, sec := 0 }) false false 0#12

/-- R221: TIMEOUT sets the timeout flag, once booted. -/
def Obligations.TimeoutSetsFlag : Prop :=
  encode .timeout = 0xF100#16 ∧
  ∀ s : State, s.cfg.wellFormed = true → s.r.booted = true →
    exec .timeout s = .next { s with p := { s.p with timeout := true } }

/-- R34, R274: any number of TIMEOUTs, one at least, with no acknowledgement between them equal one. -/
def Obligations.TimeoutsCoalesce : Prop :=
  ∀ (s : State) (n : Nat), s.cfg.wellFormed = true → s.r.booted = true →
    execAll (List.replicate (n + 1) .timeout) s = .next { s with p := { s.p with timeout := true } }

/-- R222: LINE sets the level, and a change `EDGE_POLARITY` allows sets the capture bit, which nothing
here clears; in either mode, at any time, whatever `CAP_IE`. -/
def Obligations.LineSetsLevelAndCaptures : Prop :=
  (∀ v : Bool, (encode (.line v)).toNat = 0xF200 + v.toNat) ∧
  ∀ (s : State) (v : Bool), s.cfg.wellFormed = true →
    ∃ t, exec (.line v) s = .next t ∧
      t = { s with p := { s.p with line := v, cap := t.p.cap } } ∧
      (t.p.cap = true ↔ s.p.cap = true ∨
        (s.p.line ≠ v ∧
          (s.cfg.edgePolarity = .any ∨ (s.cfg.edgePolarity = .rise ∧ v = true) ∨
            (s.cfg.edgePolarity = .fall ∧ v = false))))

/-- R223: BTN sets the button level, at any time, and nothing else. -/
def Obligations.BtnSetsButton : Prop :=
  (∀ v : Bool, (encode (.btn v)).toNat = 0xF300 + v.toNat) ∧
  ∀ (s : State) (v : Bool), s.cfg.wellFormed = true →
    exec (.btn v) s = .next { s with p := { s.p with btn := v } }

/-- R224: SW sets the switch levels, at any time, and nothing else. -/
def Obligations.SwSetsSwitches : Prop :=
  (∀ x : Switches, (encode (.sw x)).toNat = 0xE000 + x.toNat) ∧
  ∀ (s : State) (x : Switches), s.cfg.wellFormed = true → x.toNat < 2 ^ s.cfg.swW →
    exec (.sw x) s = .next { s with p := { s.p with sw := x } }

/-! ### Hazards and whole-machine claims -/

/-- R273: the three outcomes of an event between a read and its acknowledgement. A timeout between the
status read and the acknowledgement is cleared and never ticks. A transition between the capture read and
the acknowledgement is cleared unseen, but its level is sampled. A transition between the acknowledgement
and the level sample is seen in the sample and captured again, so that one transition to the active level
can cause two advance groups. -/
def Obligations.ReadThenAcknowledgeRaces : Prop :=
  (∀ s : State, s.cfg.wellFormed = true → s.r.booted = true → s.cfg.mode = .poll →
    s.p.timeout = true → s.env = [[], [.timeout]] →
    ∃ t, exec .timersvcPoll s = .next t ∧ t.p.timeout = false ∧
      t.r.tick =
        if s.r.tick.toNat + 1 = s.cfg.divisor then 0#4 else BitVec.ofNat 4 (s.r.tick.toNat + 1)) ∧
  (∀ (s : State) (v : Bool), s.cfg.wellFormed = true → s.r.booted = true → s.cfg.mode = .irq →
    s.p.cap = true → s.p.line = !v → s.env = [[], [.line v]] →
    ∃ t, exec .edgesvc s = .next t ∧ t.p.cap = false ∧ t.r.latchLevel = v) ∧
  (∀ s : State, s.cfg.wellFormed = true → s.r.booted = true → s.cfg.mode = .irq →
    s.cfg.edgePolarity ≠ .fall → s.p.cap = true → s.p.line = false →
    s.env = [[], [], [.line true]] →
    ∃ t u v, exec .edgesvc s = .next t ∧ t.p.cap = true ∧ t.r.latchLevel = true ∧
      exec .edgesvc t = .next u ∧ u.p.cap = false ∧
      execAll (List.replicate (2 * s.cfg.edgeAdv) .advance) s = .next v ∧
      u.r.sec = v.r.sec ∧ u.r.min = v.r.min ∧ u.r.hr = v.r.hr)

/-- R286: an IRQ makes at most 16 port accesses, and consumes at most 16 turns of the schedule; some IRQ
makes 16. -/
def Obligations.IrqAccessBound : Prop :=
  (∀ (s t : State) (c : Cause), exec (.irq c) s = .next t →
    ∃ more, t.trace = s.trace ++ more ∧ more.length ≤ 16 ∧ t.env = s.env.drop more.length) ∧
  (∃ (s t : State) (c : Cause), exec (.irq c) s = .next t ∧ refusalReason (.irq c) s = none ∧
    t.trace.length = s.trace.length + 16)

/-- R248: with both requests pending either IRQ is admitted, and the one not taken stays admitted after
the other; with no event inside them both orders end at the same time of day. -/
def Obligations.EitherInterruptFirst : Prop :=
  ∀ s : State, s.cfg.wellFormed = true → s.r.booted = true → s.cfg.mode = .irq →
    s.cfg.edgeLayout = .distinct → s.p.ie = true → irqTimer s = true → irqEdge s = true →
    ∃ t u v w,
      exec (.irq s.cfg.causeTimer) s = .next t ∧ exec (.irq s.cfg.causeEdge) t = .next u ∧
      exec (.irq s.cfg.causeEdge) s = .next v ∧ exec (.irq s.cfg.causeTimer) v = .next w ∧
      u.refusals = s.refusals ∧ w.refusals = s.refusals ∧
      (s.env = [] → timeNumber u = timeNumber w ∧ u.r.tick = w.r.tick ∧ u.p = w.p)

/-- R216: in `MODE = IRQ` the button and the switches have no effect: two states that differ in them only
go on to states that differ in them at most. -/
def Obligations.ButtonAndSwitchesInertInIrqMode : Prop :=
  ∀ (i : Instr) (s t t' : State) (b : Bool) (x : Switches), s.cfg.mode = .irq →
    exec i s = .next t → exec i { s with p := { s.p with btn := b, sw := x } } = .next t' →
    t' = { t with p := t'.p } ∧ { t'.p with btn := t.p.btn, sw := t.p.sw } = t.p

/-- R26: no rule reads `hb`: two states that differ in it only go on to states that differ in it at most. -/
def Obligations.HeartbeatIsCosmetic : Prop :=
  ∀ (i : Instr) (s t t' : State) (h : Nat),
    exec i s = .next t → exec i { s with r := { s.r with hb := h } } = .next t' →
    t' = { t with r := { t.r with hb := t'.r.hb } }

/-- R141, R143, R121, R285 in `MODE = IRQ`: with one TIMEOUT a period, each serviced by the timer's IRQ
before the next, no captured edge and no event inside an operation, `n` periods tick the divider `n`
times, advance the time once for each wrap, and show it from the first wrap on. -/
def Obligations.InterruptClockKeepsTime : Prop :=
  ∀ (s : State) (n : Nat), s.cfg.wellFormed = true → s.r.booted = true → s.cfg.mode = .irq →
    s.p.ie = true → s.p.timIto = true → s.p.cap = false → s.env = [] → TimeInRange s → SlotsSized s →
    s.r.tick.toNat < s.cfg.divisor →
    ∃ t, execAll (List.replicate n [Instr.timeout, .irq s.cfg.causeTimer]).flatten s = .next t ∧
      t.r.tick.toNat = (s.r.tick.toNat + n) % s.cfg.divisor ∧
      timeNumber t =
        (timeNumber s + (s.r.tick.toNat + n) / s.cfg.divisor) % timePeriod s.cfg ∧
      (s.cfg.divisor ≤ s.r.tick.toNat + n → t.r.slots = shownSlots t) ∧
      t.refusals = s.refusals ∧ TimeInRange t

/-- The same in `MODE = POLL`, with one POLL for each TIMEOUT and the button released; the heartbeat
counts the periods (R26). -/
def Obligations.PollingClockKeepsTime : Prop :=
  ∀ (s : State) (n : Nat), s.cfg.wellFormed = true → s.r.booted = true → s.cfg.mode = .poll →
    s.r.phase = .sample → s.p.btn = false → s.env = [] → TimeInRange s → SlotsSized s →
    s.r.tick.toNat < s.cfg.divisor → s.r.hb < 2 ^ s.cfg.hbW →
    ∃ t, execAll (List.replicate n [Instr.timeout, .poll]).flatten s = .next t ∧
      t.r.tick.toNat = (s.r.tick.toNat + n) % s.cfg.divisor ∧
      timeNumber t =
        (timeNumber s + (s.r.tick.toNat + n) / s.cfg.divisor) % timePeriod s.cfg ∧
      (s.cfg.divisor ≤ s.r.tick.toNat + n → t.r.slots = shownSlots t) ∧
      t.r.hb = (s.r.hb + n) % 2 ^ s.cfg.hbW ∧ t.refusals = s.refusals ∧ TimeInRange t

/-- R247, for both requests. On a weakly fair run a timer request that is up while interrupts are enabled
is taken by an admitted IRQ with the timer's cause, if only IRQs acknowledge the timer (no RESET and no
stand-alone TIMERSVC.IRQ after it); and in DISTINCT an edge request is taken by one with the edge's cause,
if only IRQs acknowledge the capture bit. A run may have environment events inside its operations for ever
(R66). Fairness is a premise about the environment (log entry 17). -/
def Obligations.FairRunTakesTimerRequest : Prop :=
  (∀ (ρ : Run) (n : Nat), ρ.WeaklyFair → (ρ.state n).cfg.mode = .irq →
    (∀ m, n ≤ m → ρ.instr m ≠ .reset ∧ ρ.instr m ≠ .timersvcIrq) →
    timerRequested (ρ.state n) →
    ∃ m, n ≤ m ∧ ρ.takes (.irq (ρ.state n).cfg.causeTimer) m) ∧
  (∀ (ρ : Run) (n : Nat), ρ.WeaklyFair → (ρ.state n).cfg.mode = .irq →
    (ρ.state n).cfg.edgeLayout = .distinct →
    (∀ m, n ≤ m → ρ.instr m ≠ .reset ∧ ρ.instr m ≠ .edgesvc) →
    edgeRequested (ρ.state n) →
    ∃ m, n ≤ m ∧ ρ.takes (.irq (ρ.state n).cfg.causeEdge) m)

/-- R275, R287: on a run in `MODE = POLL` in which every press is followed by a release, and after each
release a POLL comes that samples the button released, a pending timeout is acknowledged, if no RESET comes.
Presses, releases and other events may fall between commands and inside them, for ever. Runs, like
fairness, are the model's terms (log entry 17). -/
def Obligations.ReleasedRunServesTimeout : Prop :=
  ∀ (ρ : Run) (n : Nat), (ρ.state n).cfg.mode = .poll → ρ.Releases →
    (∀ m, n ≤ m → ρ.releasedAt m →
      ∃ k, m ≤ k ∧ ρ.takes .poll k ∧ (interlude (ρ.before k)).p.btn = false) →
    (∀ m, n ≤ m → ρ.instr m ≠ .reset) → (ρ.state n).p.timeout = true →
    ∃ k more, n ≤ k ∧ (ρ.state (k + 1)).trace = (ρ.state k).trace ++ more ∧ .ackTimer ∈ more

/-! ### Assembler syntax -/

/-- R89: how each mnemonic is written; the line of every command, with its operands in decimal or in
hexadecimal, with a comment or without one, gives that command; and an operand out of its range is an error.
Lexical points R89 leaves open, the one space after the mnemonic and after a comma among them, are the
model's choice (log entry 19). -/
def Obligations.AssemblerSyntaxTable : Prop :=
  ([Mnemonic.nop, .encode, .blank, .advance, .setf, .decomp, .tick, .render, .wslot, .edgesvc, .levelsvc,
      .timersvcIrq, .timersvcPoll, .irq, .poll, .sw, .reset, .timeout, .line, .btn].map spelling =
    ["NOP", "ENCODE", "BLANK", "ADVANCE", "SETF", "DECOMP", "TICK", "RENDER", "WSLOT", "EDGESVC",
      "LEVELSVC", "TIMERSVC.IRQ", "TIMERSVC.POLL", "IRQ", "POLL", "SW", "RESET", "TIMEOUT", "LINE",
      "BTN"]) ∧
  (∀ m : Mnemonic, parseMnemonic (spelling m).toList = .ok m) ∧
  (∀ (c : Config) (i : Instr), i.wellFormed c.swW = true →
    lineCommands c (mnemonicOf i) (operandsOf i) = .ok [i] ∧
    ∀ number ∈ [decimal, hexadecimal],
      assembleLine c (String.ofList (commandText number i)) = .ok [i] ∧
      ∀ comment : List Char,
        assembleLine c (String.ofList (commandText number i ++ ';' :: comment)) = .ok [i]) ∧
  (∀ (c : Config) (n m : Nat),
    (16 ≤ n → lineCommands c .encode [n] = .error .outOfRange) ∧
    (4 ≤ n ∨ 256 ≤ m → lineCommands c .setf [n, m] = .error .outOfRange) ∧
    (16 ≤ n ∨ 256 ≤ m → lineCommands c .wslot [n, m] = .error .outOfRange) ∧
    (4096 ≤ n → lineCommands c .irq [n] = .error .outOfRange) ∧
    (2 ^ c.swW ≤ n → lineCommands c .sw [n] = .error .outOfRange) ∧
    (2 ≤ n → lineCommands c .line [n] = .error .outOfRange) ∧
    (2 ≤ n → lineCommands c .btn [n] = .error .outOfRange))

/-- R90: what each pseudo-instruction expands to, and how those of one line are written. A REPEAT block is the
tree `Source.repeatBlock` and has no written form here: its braces are not parsed from text (log entry 19,
DESIGN CHOICE). -/
def Obligations.PseudoInstructionsExpand : Prop :=
  ([Mnemonic.tickirq, .tickpoll, .edge, .press].map spelling = ["TICKIRQ", "TICKPOLL", "EDGE", "PRESS"]) ∧
  (∀ (c : Config) (n : Nat) (body : List Source) (is : List Instr), assembleAll c body = .ok is →
    assembleOne c (.repeatBlock n body) = .ok (List.replicate n is).flatten) ∧
  (∀ c : Config, lineCommands c .tickirq [] = .ok [.timeout, .irq c.causeTimer] ∧
    lineCommands c .tickpoll [] = .ok [.timeout, .poll]) ∧
  (∀ (c : Config) (v : Bool),
    (c.edgeLayout = .distinct →
      lineCommands c .edge [v.toNat] = .ok [.line v, .irq c.causeEdge]) ∧
    (c.edgeLayout = .shared → lineCommands c .edge [v.toNat] = .error .needsDistinct)) ∧
  (∀ (c : Config) (x : Switches), x.toNat < 2 ^ c.swW →
    lineCommands c .press [x.toNat] = .ok [.sw x, .btn true, .poll, .btn false, .poll])
end

