-- ==== Sys2Proof/Laws/Config.lean ====
section
/-! SUPPORT. What a well-formed configuration says of each field, so that no later proof unfolds
Config.wellFormed. -/

namespace Sys2Proof

variable {c : Config}

theorem Config.smod_eq (h : c.wellFormed = true) : c.smod = 60 := by
  simp [Config.wellFormed, Config.literalsOk] at h; omega

theorem Config.mmod_eq (h : c.wellFormed = true) : c.mmod = 60 := by
  simp [Config.wellFormed, Config.literalsOk] at h; omega

theorem Config.nslots_eq (h : c.wellFormed = true) : c.nslots = 6 := by
  simp [Config.wellFormed, Config.literalsOk] at h; omega

theorem Config.selW_eq (h : c.wellFormed = true) : c.selW = 2 := by
  simp [Config.wellFormed, Config.literalsOk] at h; omega

theorem Config.valW_eq (h : c.wellFormed = true) : c.valW = 6 := by
  simp [Config.wellFormed, Config.literalsOk] at h; omega

theorem Config.hmod_cases (h : c.wellFormed = true) : c.hmod = 24 ∨ c.hmod = 100 := by
  simp [Config.wellFormed, Config.domainsOk] at h; omega

theorem Config.divisor_range (h : c.wellFormed = true) : 1 ≤ c.divisor ∧ c.divisor ≤ 15 := by
  simp [Config.wellFormed, Config.domainsOk] at h; omega

theorem Config.edgeAdv_cases (h : c.wellFormed = true) : c.edgeAdv = 1 ∨ c.edgeAdv = 2 := by
  simp [Config.wellFormed, Config.domainsOk] at h; omega

theorem Config.swW_range (h : c.wellFormed = true) : 8 ≤ c.swW ∧ c.swW ≤ 12 := by
  simp [Config.wellFormed, Config.domainsOk] at h; omega

theorem Config.causes_ne (h : c.wellFormed = true) (hl : c.edgeLayout = .distinct) :
    c.causeEdge ≠ c.causeTimer := by
  simp [Config.wellFormed, Config.causesOk, hl] at h; exact h.1.1.2

theorem Config.initTime_sec (h : c.wellFormed = true) : c.initTime.sec < 60 := by
  have hs := Config.smod_eq h
  simp [Config.wellFormed, Config.initTimeOk] at h; omega

theorem Config.initTime_min (h : c.wellFormed = true) : c.initTime.min < 60 := by
  have hs := Config.mmod_eq h
  simp [Config.wellFormed, Config.initTimeOk] at h; omega

theorem Config.initTime_hms (h : c.wellFormed = true) (hv : c.variant = .hms) :
    c.initTime.hr < c.hmod := by
  simp [Config.wellFormed, Config.initTimeOk, hv] at h; omega

theorem Config.initTime_ms (h : c.wellFormed = true) (hv : c.variant = .ms) : c.initTime.hr = 0 := by
  simp [Config.wellFormed, Config.initTimeOk, hv] at h; omega

end Sys2Proof
end

