-- ==== Sys2Proof/Laws/Decode.lean ====
section
/-! SUPPORT. The bit-field laws the encoding statements rest on: fields of concatenations, and fields and
concatenations as numbers. -/

namespace Sys2Proof

/-- The high part of a concatenation. -/
theorem extract_append_high {n m : Nat} (a : BitVec n) (b : BitVec m) :
    (a ++ b).extractLsb' m n = a := by
  ext i hi
  simp only [BitVec.getElem_extractLsb', BitVec.getLsbD_append]
  have h : ¬ (m + i < m) := by omega
  simp [h, hi, BitVec.getLsbD_eq_getElem]

/-- A field inside the low part of a concatenation. -/
theorem extract_append_inLow {n m : Nat} (a : BitVec n) (b : BitVec m) (s k : Nat) (h : s + k ≤ m) :
    (a ++ b).extractLsb' s k = b.extractLsb' s k := by
  ext i hi
  simp only [BitVec.getElem_extractLsb', BitVec.getLsbD_append]
  have h' : s + i < m := by omega
  simp [h']

/-- A field inside the high part of a concatenation. -/
theorem extract_append_inHigh {n m : Nat} (a : BitVec n) (b : BitVec m) (s k : Nat) (h : m ≤ s) :
    (a ++ b).extractLsb' s k = a.extractLsb' (s - m) k := by
  ext i hi
  simp only [BitVec.getElem_extractLsb', BitVec.getLsbD_append]
  have h' : ¬ (s + i < m) := by omega
  simp only [h', if_false]
  congr 1; omega

/-- The field that is the whole value. -/
theorem extract_whole {m : Nat} (b : BitVec m) : b.extractLsb' 0 m = b := by
  ext i hi; simp

/-- A concatenation as a number. -/
theorem toNat_append_eq {n m : Nat} (a : BitVec n) (b : BitVec m) :
    (a ++ b).toNat = a.toNat * 2 ^ m + b.toNat := by
  rw [BitVec.toNat_append, ← Nat.shiftLeft_add_eq_or_of_lt b.isLt, Nat.shiftLeft_eq]

/-- A field as a number. -/
theorem toNat_extract {n : Nat} (w : BitVec n) (s k : Nat) :
    (w.extractLsb' s k).toNat = w.toNat / 2 ^ s % 2 ^ k := by
  rw [BitVec.extractLsb'_toNat, Nat.shiftRight_eq_div_pow]

/-- The class of a word as a number (R80). -/
theorem toNat_opClass (w : Word) : (opClass w).toNat = w.toNat / 4096 := by
  have h := w.isLt
  rw [opClass, toNat_extract]; omega

/-- The operand field of a word as a number (R80). -/
theorem toNat_operand (w : Word) : (operand w).toNat = w.toNat % 4096 := by
  rw [operand, toNat_extract]; omega

end Sys2Proof
end

