-- ==== Sys2Proof/Laws/State.lean ====
section
/-! SUPPORT. One lemma per field per update of State, each true by rfl, so that no later proof unfolds a
record update. -/

namespace Sys2Proof.Machine

variable (s : State)

@[simp] theorem State.setSec_cfg (n : Nat) : (s.setSec n).cfg = s.cfg := rfl
@[simp] theorem State.setSec_r (n : Nat) : (s.setSec n).r = { s.r with sec := BitVec.ofNat 6 n } := rfl
@[simp] theorem State.setSec_p (n : Nat) : (s.setSec n).p = s.p := rfl
@[simp] theorem State.setSec_refusals (n : Nat) : (s.setSec n).refusals = s.refusals := rfl
@[simp] theorem State.setSec_commands (n : Nat) : (s.setSec n).commands = s.commands := rfl
@[simp] theorem State.setSec_env (n : Nat) : (s.setSec n).env = s.env := rfl
@[simp] theorem State.setSec_trace (n : Nat) : (s.setSec n).trace = s.trace := rfl

@[simp] theorem State.setMin_cfg (n : Nat) : (s.setMin n).cfg = s.cfg := rfl
@[simp] theorem State.setMin_r (n : Nat) : (s.setMin n).r = { s.r with min := BitVec.ofNat 6 n } := rfl
@[simp] theorem State.setMin_p (n : Nat) : (s.setMin n).p = s.p := rfl
@[simp] theorem State.setMin_refusals (n : Nat) : (s.setMin n).refusals = s.refusals := rfl
@[simp] theorem State.setMin_commands (n : Nat) : (s.setMin n).commands = s.commands := rfl
@[simp] theorem State.setMin_env (n : Nat) : (s.setMin n).env = s.env := rfl
@[simp] theorem State.setMin_trace (n : Nat) : (s.setMin n).trace = s.trace := rfl

@[simp] theorem State.setHr_cfg (n : Nat) : (s.setHr n).cfg = s.cfg := rfl
@[simp] theorem State.setHr_r (n : Nat) : (s.setHr n).r = { s.r with hr := BitVec.ofNat 7 n } := rfl
@[simp] theorem State.setHr_p (n : Nat) : (s.setHr n).p = s.p := rfl
@[simp] theorem State.setHr_refusals (n : Nat) : (s.setHr n).refusals = s.refusals := rfl
@[simp] theorem State.setHr_commands (n : Nat) : (s.setHr n).commands = s.commands := rfl
@[simp] theorem State.setHr_env (n : Nat) : (s.setHr n).env = s.env := rfl
@[simp] theorem State.setHr_trace (n : Nat) : (s.setHr n).trace = s.trace := rfl

@[simp] theorem State.setTick_cfg (n : Nat) : (s.setTick n).cfg = s.cfg := rfl
@[simp] theorem State.setTick_r (n : Nat) : (s.setTick n).r = { s.r with tick := BitVec.ofNat 4 n } := rfl
@[simp] theorem State.setTick_p (n : Nat) : (s.setTick n).p = s.p := rfl
@[simp] theorem State.setTick_refusals (n : Nat) : (s.setTick n).refusals = s.refusals := rfl
@[simp] theorem State.setTick_commands (n : Nat) : (s.setTick n).commands = s.commands := rfl
@[simp] theorem State.setTick_env (n : Nat) : (s.setTick n).env = s.env := rfl
@[simp] theorem State.setTick_trace (n : Nat) : (s.setTick n).trace = s.trace := rfl

@[simp] theorem State.setPhase_cfg (f : Phase) : (s.setPhase f).cfg = s.cfg := rfl
@[simp] theorem State.setPhase_r (f : Phase) : (s.setPhase f).r = { s.r with phase := f } := rfl
@[simp] theorem State.setPhase_p (f : Phase) : (s.setPhase f).p = s.p := rfl
@[simp] theorem State.setPhase_refusals (f : Phase) : (s.setPhase f).refusals = s.refusals := rfl
@[simp] theorem State.setPhase_commands (f : Phase) : (s.setPhase f).commands = s.commands := rfl
@[simp] theorem State.setPhase_env (f : Phase) : (s.setPhase f).env = s.env := rfl
@[simp] theorem State.setPhase_trace (f : Phase) : (s.setPhase f).trace = s.trace := rfl

@[simp] theorem State.setHb_cfg (n : Nat) : (s.setHb n).cfg = s.cfg := rfl
@[simp] theorem State.setHb_r (n : Nat) : (s.setHb n).r = { s.r with hb := n } := rfl
@[simp] theorem State.setHb_p (n : Nat) : (s.setHb n).p = s.p := rfl
@[simp] theorem State.setHb_refusals (n : Nat) : (s.setHb n).refusals = s.refusals := rfl
@[simp] theorem State.setHb_commands (n : Nat) : (s.setHb n).commands = s.commands := rfl
@[simp] theorem State.setHb_env (n : Nat) : (s.setHb n).env = s.env := rfl
@[simp] theorem State.setHb_trace (n : Nat) : (s.setHb n).trace = s.trace := rfl

@[simp] theorem State.setLatch_cfg (v : Bool) : (s.setLatch v).cfg = s.cfg := rfl
@[simp] theorem State.setLatch_r (v : Bool) : (s.setLatch v).r = { s.r with latchLevel := v } := rfl
@[simp] theorem State.setLatch_p (v : Bool) : (s.setLatch v).p = s.p := rfl
@[simp] theorem State.setLatch_refusals (v : Bool) : (s.setLatch v).refusals = s.refusals := rfl
@[simp] theorem State.setLatch_commands (v : Bool) : (s.setLatch v).commands = s.commands := rfl
@[simp] theorem State.setLatch_env (v : Bool) : (s.setLatch v).env = s.env := rfl
@[simp] theorem State.setLatch_trace (v : Bool) : (s.setLatch v).trace = s.trace := rfl

@[simp] theorem State.setRes_cfg (v : BitVec 32) : (s.setRes v).cfg = s.cfg := rfl
@[simp] theorem State.setRes_r (v : BitVec 32) : (s.setRes v).r = { s.r with res := v } := rfl
@[simp] theorem State.setRes_p (v : BitVec 32) : (s.setRes v).p = s.p := rfl
@[simp] theorem State.setRes_refusals (v : BitVec 32) : (s.setRes v).refusals = s.refusals := rfl
@[simp] theorem State.setRes_commands (v : BitVec 32) : (s.setRes v).commands = s.commands := rfl
@[simp] theorem State.setRes_env (v : BitVec 32) : (s.setRes v).env = s.env := rfl
@[simp] theorem State.setRes_trace (v : BitVec 32) : (s.setRes v).trace = s.trace := rfl

@[simp] theorem State.setSlots_cfg (v : List (Option Byte)) : (s.setSlots v).cfg = s.cfg := rfl
@[simp] theorem State.setSlots_r (v : List (Option Byte)) : (s.setSlots v).r = { s.r with slots := v } := rfl
@[simp] theorem State.setSlots_p (v : List (Option Byte)) : (s.setSlots v).p = s.p := rfl
@[simp] theorem State.setSlots_refusals (v : List (Option Byte)) : (s.setSlots v).refusals = s.refusals := rfl
@[simp] theorem State.setSlots_commands (v : List (Option Byte)) : (s.setSlots v).commands = s.commands := rfl
@[simp] theorem State.setSlots_env (v : List (Option Byte)) : (s.setSlots v).env = s.env := rfl
@[simp] theorem State.setSlots_trace (v : List (Option Byte)) : (s.setSlots v).trace = s.trace := rfl

@[simp] theorem State.setP_cfg (q : Platform) : (s.setP q).cfg = s.cfg := rfl
@[simp] theorem State.setP_r (q : Platform) : (s.setP q).r = s.r := rfl
@[simp] theorem State.setP_p (q : Platform) : (s.setP q).p = q := rfl
@[simp] theorem State.setP_refusals (q : Platform) : (s.setP q).refusals = s.refusals := rfl
@[simp] theorem State.setP_commands (q : Platform) : (s.setP q).commands = s.commands := rfl
@[simp] theorem State.setP_env (q : Platform) : (s.setP q).env = s.env := rfl
@[simp] theorem State.setP_trace (q : Platform) : (s.setP q).trace = s.trace := rfl

@[simp] theorem State.record_cfg (a : Access) : (s.record a).cfg = s.cfg := rfl
@[simp] theorem State.record_r (a : Access) : (s.record a).r = s.r := rfl
@[simp] theorem State.record_p (a : Access) : (s.record a).p = s.p := rfl
@[simp] theorem State.record_refusals (a : Access) : (s.record a).refusals = s.refusals := rfl
@[simp] theorem State.record_commands (a : Access) : (s.record a).commands = s.commands := rfl
@[simp] theorem State.record_env (a : Access) : (s.record a).env = s.env := rfl
@[simp] theorem State.record_trace (a : Access) : (s.record a).trace = s.trace ++ [a] := rfl

@[simp] theorem State.refuse_cfg (w : Word) (why : Reason) :
    (s.refuse w why).cfg = s.cfg := rfl
@[simp] theorem State.refuse_r (w : Word) (why : Reason) :
    (s.refuse w why).r = s.r := rfl
@[simp] theorem State.refuse_p (w : Word) (why : Reason) :
    (s.refuse w why).p = s.p := rfl
@[simp] theorem State.refuse_refusals (w : Word) (why : Reason) :
    (s.refuse w why).refusals = s.refusals ++ [{ word := w, reason := why }] := rfl
@[simp] theorem State.refuse_commands (w : Word) (why : Reason) :
    (s.refuse w why).commands = s.commands := rfl
@[simp] theorem State.refuse_env (w : Word) (why : Reason) :
    (s.refuse w why).env = s.env := rfl
@[simp] theorem State.refuse_trace (w : Word) (why : Reason) :
    (s.refuse w why).trace = s.trace := rfl

@[simp] theorem interlude_cfg : (interlude s).cfg = s.cfg := rfl
@[simp] theorem interlude_r : (interlude s).r = s.r := rfl
theorem interlude_p : (interlude s).p = applyEvents s.cfg s.p (s.env.headD []) := rfl
@[simp] theorem interlude_refusals : (interlude s).refusals = s.refusals := rfl
@[simp] theorem interlude_commands : (interlude s).commands = s.commands := rfl
@[simp] theorem interlude_env : (interlude s).env = s.env.tail := rfl
@[simp] theorem interlude_trace : (interlude s).trace = s.trace := rfl

@[simp] theorem applyEvents_nil (c : Config) (p : Platform) : applyEvents c p [] = p := rfl

@[simp] theorem applyEvents_cons (c : Config) (p : Platform) (e : EnvEvent) (es : List EnvEvent) :
    applyEvents c p (e :: es) = applyEvents c (applyEvent c p e) es := rfl

end Sys2Proof.Machine
end

