-- ==== Sys2Proof/Laws/Ops.lean ====
section
/-! SUPPORT. One lemma per shared operation that says everything it can do, and the fields each sub-step
leaves alone. Later proofs cite these and do not unfold the operations. -/

namespace Sys2Proof.Machine

/-! ### What a sub-step of a block operation leaves alone -/

/-- Two states agree on all that no block operation writes: the configuration, the refusal log, the
command queue, `booted` and the control fields of the platform (R39). -/
structure SameShell (s t : State) : Prop where
  cfg      : t.cfg = s.cfg
  refusals : t.refusals = s.refusals
  commands : t.commands = s.commands
  booted   : t.r.booted = s.r.booted
  timRun   : t.p.timRun = s.p.timRun
  timCont  : t.p.timCont = s.p.timCont
  timIto   : t.p.timIto = s.p.timIto
  capIe    : t.p.capIe = s.p.capIe
  ie       : t.p.ie = s.p.ie

theorem SameShell.refl (s : State) : SameShell s s := ⟨rfl, rfl, rfl, rfl, rfl, rfl, rfl, rfl, rfl⟩

theorem SameShell.trans {s t u : State} (h : SameShell s t) (k : SameShell t u) : SameShell s u :=
  ⟨k.cfg.trans h.cfg, k.refusals.trans h.refusals, k.commands.trans h.commands,
    k.booted.trans h.booted, k.timRun.trans h.timRun, k.timCont.trans h.timCont,
    k.timIto.trans h.timIto, k.capIe.trans h.capIe, k.ie.trans h.ie⟩

/-- An environment event writes no control field. -/
theorem applyEvent_control (c : Config) (p : Platform) (e : EnvEvent) :
    (applyEvent c p e).timRun = p.timRun ∧ (applyEvent c p e).timCont = p.timCont ∧
      (applyEvent c p e).timIto = p.timIto ∧ (applyEvent c p e).capIe = p.capIe ∧
      (applyEvent c p e).ie = p.ie := by
  cases e <;> exact ⟨rfl, rfl, rfl, rfl, rfl⟩

theorem applyEvents_control (c : Config) (es : List EnvEvent) : ∀ p : Platform,
    (applyEvents c p es).timRun = p.timRun ∧ (applyEvents c p es).timCont = p.timCont ∧
      (applyEvents c p es).timIto = p.timIto ∧ (applyEvents c p es).capIe = p.capIe ∧
      (applyEvents c p es).ie = p.ie := by
  induction es with
  | nil => intro p; exact ⟨rfl, rfl, rfl, rfl, rfl⟩
  | cons e es ih =>
    intro p
    obtain ⟨a, b, c', d, f⟩ := ih (applyEvent c p e)
    obtain ⟨a', b', c'', d', f'⟩ := applyEvent_control c p e
    exact ⟨a.trans a', b.trans b', c'.trans c'', d.trans d', f.trans f'⟩

/-- Events never clear the timeout flag or the capture bit (R34, R35). -/
theorem applyEvents_sets (c : Config) (es : List EnvEvent) : ∀ p : Platform,
    (p.timeout = true → (applyEvents c p es).timeout = true) ∧
      (p.cap = true → (applyEvents c p es).cap = true) := by
  induction es with
  | nil => intro p; exact ⟨id, id⟩
  | cons e es ih =>
    intro p
    have h : (p.timeout = true → (applyEvent c p e).timeout = true) ∧
        (p.cap = true → (applyEvent c p e).cap = true) := by
      cases e <;> simp +contextual [applyEvent]
    exact ⟨fun k => (ih _).1 (h.1 k), fun k => (ih _).2 (h.2 k)⟩

/-- A switch register of `SW_W` bits keeps that width under events of that width. -/
theorem applyEvents_sw (c : Config) (n : Nat) (es : List EnvEvent)
    (hes : ∀ e ∈ es, e.wellFormed n = true) : ∀ p : Platform, fitsSwitches n p.sw = true →
      fitsSwitches n (applyEvents c p es).sw = true := by
  induction es with
  | nil => intro p hp; exact hp
  | cons e es ih =>
    intro p hp
    refine ih (fun e' h => hes e' (List.mem_cons_of_mem _ h)) _ ?_
    have he := hes e List.mem_cons_self
    cases e <;> simp_all [applyEvent, EnvEvent.wellFormed]

theorem interlude_shell (s : State) : SameShell s (interlude s) := by
  obtain ⟨a, b, c, d, e⟩ := applyEvents_control s.cfg (s.env.headD []) s.p
  exact ⟨rfl, rfl, rfl, rfl, a, b, c, d, e⟩

theorem readTimerStatus_shell (s : State) : SameShell s (readTimerStatus s).2 :=
  (interlude_shell s).trans ⟨rfl, rfl, rfl, rfl, rfl, rfl, rfl, rfl, rfl⟩

theorem readCap_shell (s : State) : SameShell s (readCap s).2 :=
  (interlude_shell s).trans ⟨rfl, rfl, rfl, rfl, rfl, rfl, rfl, rfl, rfl⟩

theorem readLine_shell (s : State) : SameShell s (readLine s).2 :=
  (interlude_shell s).trans ⟨rfl, rfl, rfl, rfl, rfl, rfl, rfl, rfl, rfl⟩

theorem readBtn_shell (s : State) : SameShell s (readBtn s).2 :=
  (interlude_shell s).trans ⟨rfl, rfl, rfl, rfl, rfl, rfl, rfl, rfl, rfl⟩

theorem readSwitches_shell (s : State) : SameShell s (readSwitches s).2 :=
  (interlude_shell s).trans ⟨rfl, rfl, rfl, rfl, rfl, rfl, rfl, rfl, rfl⟩

theorem ackTimer_shell (s : State) : SameShell s (ackTimer s) :=
  (interlude_shell s).trans ⟨rfl, rfl, rfl, rfl, rfl, rfl, rfl, rfl, rfl⟩

theorem ackCap_shell (v : Bool) (s : State) : SameShell s (ackCap v s) :=
  (interlude_shell s).trans ⟨rfl, rfl, rfl, rfl, rfl, rfl, rfl, rfl, rfl⟩

theorem slotWrite_shell (i : BitVec 4) (v : Byte) (s : State) : SameShell s (slotWrite i v s) :=
  (interlude_shell s).trans ⟨rfl, rfl, rfl, rfl, rfl, rfl, rfl, rfl, rfl⟩

theorem interludes_shell (n : Nat) : ∀ s, SameShell s (interludes n s) := by
  induction n with
  | zero => exact SameShell.refl
  | succ n ih => exact fun s => (interlude_shell s).trans (ih _)

/-- The environment's turns write no block register and record no access. -/
theorem interludes_r (n : Nat) : ∀ s, (interludes n s).r = s.r ∧ (interludes n s).trace = s.trace := by
  induction n with
  | zero => intro s; exact ⟨rfl, rfl⟩
  | succ n ih => intro s; exact ih (interlude s)

/-- With an empty schedule nothing happens inside an operation. -/
theorem interlude_of_no_events {s : State} (h : s.env = []) : interlude s = s := by
  cases s; simp_all [interlude]

theorem interludes_of_no_events (n : Nat) : ∀ {s : State}, s.env = [] → interludes n s = s := by
  induction n with
  | zero => intro s _; rfl
  | succ n ih => intro s h; simp only [interludes, interlude_of_no_events h]; exact ih h

/-! ### The time register -/

/-- ADVANCE as one register update (R120), for any moduli. -/
theorem advance_eq (s : State) : advance s =
    { s with
      r :=
        { s.r with
          sec := if s.r.sec.toNat + 1 < s.cfg.smod then BitVec.ofNat 6 (s.r.sec.toNat + 1) else 0#6
          min :=
            if s.r.sec.toNat + 1 < s.cfg.smod then s.r.min
            else if s.r.min.toNat + 1 < s.cfg.mmod then BitVec.ofNat 6 (s.r.min.toNat + 1) else 0#6
          hr :=
            if s.r.sec.toNat + 1 < s.cfg.smod ∨ s.r.min.toNat + 1 < s.cfg.mmod ∨ s.cfg.variant = .ms
            then s.r.hr
            else BitVec.ofNat 7 ((s.r.hr.toNat + 1) % s.cfg.hmod) } } := by
  rcases s with ⟨cfg, r, p, q, w, e, t⟩
  simp only [advance, carryIntoMinutes, carryIntoHours, State.setSec, State.setMin, State.setHr]
  by_cases h1 : r.sec.toNat + 1 < cfg.smod
  · simp [h1]
  · by_cases h2 : r.min.toNat + 1 < cfg.mmod
    · simp [h1, h2]
    · cases h3 : cfg.variant <;> simp [h1, h2]

/-- SETF as one register update (R91, R122), for any moduli. -/
theorem setField_eq (sel raw : Nat) (s : State) : setField sel raw s =
    { s with
      r :=
        { s.r with
          sec := if sel = 1 then BitVec.ofNat 6 (raw % s.cfg.smod) else s.r.sec
          min := if sel = 2 then BitVec.ofNat 6 (raw % s.cfg.mmod) else s.r.min
          hr :=
            if sel = 3 ∧ s.cfg.variant = .hms then BitVec.ofNat 7 (raw % s.cfg.hmod)
            else s.r.hr } } := by
  rcases s with ⟨cfg, r, p, q, w, e, t⟩
  match sel with
  | 0 | 1 | 2 | 3 | n + 4 =>
    cases hv : cfg.variant <;>
      simp [setField, selectedUnit, hv, State.setSec, State.setMin, State.setHr]

theorem advance_shell (s : State) : SameShell s (advance s) := by
  rw [advance_eq]; exact ⟨rfl, rfl, rfl, rfl, rfl, rfl, rfl, rfl, rfl⟩

theorem setField_shell (sel raw : Nat) (s : State) : SameShell s (setField sel raw s) := by
  rw [setField_eq]; exact ⟨rfl, rfl, rfl, rfl, rfl, rfl, rfl, rfl, rfl⟩

theorem advanceTimes_shell (n : Nat) : ∀ s, SameShell s (advanceTimes n s) := by
  induction n with
  | zero => exact SameShell.refl
  | succ n ih => exact fun s => (advance_shell s).trans (ih _)

/-- A number of advances writes no more than the three units. -/
theorem advanceTimes_eq (n : Nat) : ∀ s, ∃ a b c, advanceTimes n s =
    { s with r := { s.r with sec := a, min := b, hr := c } } := by
  induction n with
  | zero => exact fun s => ⟨s.r.sec, s.r.min, s.r.hr, rfl⟩
  | succ n ih =>
    intro s
    obtain ⟨a, b, c, h⟩ := ih (advance s)
    exact ⟨a, b, c, by rw [advanceTimes, h, advance_eq s]⟩

/-! ### The divider -/

theorem tick_fst (s : State) : (tick s).1 = wraps s := by
  unfold tick; cases h : wraps s <;> simp

theorem tick_snd (s : State) :
    (tick s).2 = s.setTick (if s.r.tick.toNat + 1 = s.cfg.divisor then 0 else s.r.tick.toNat + 1) := by
  unfold tick wraps
  by_cases h : s.r.tick.toNat + 1 = s.cfg.divisor <;> simp [h]

theorem tick_shell (s : State) : SameShell s (tick s).2 := by
  rw [tick_snd]; exact ⟨rfl, rfl, rfl, rfl, rfl, rfl, rfl, rfl, rfl⟩

/-! ### The renderer -/

theorem renderSlots_shell (digits : List (BitVec 4)) (l : List Nat) :
    ∀ s, SameShell s (renderSlots digits l s) := by
  induction l with
  | nil => exact SameShell.refl
  | cons i l ih => exact fun s => (slotWrite_shell _ _ s).trans (ih _)

theorem render_shell (s : State) : SameShell s (render s) := renderSlots_shell _ _ s

/-- The slot patterns of a render are the shown patterns (R160, R164). -/
theorem slotPattern_decompose (s : State) (i : Nat) (h : i < 6) :
    slotPattern s.cfg (decompose s) i = (shownPatterns s)[i] := by
  unfold slotPattern decompose shownPatterns timeDigits digitCount ones tens blankPat
  match i, h with
  | 0, _ | 1, _ | 2, _ | 3, _ | 4, _ | 5, _ => cases hv : s.cfg.variant <;> simp

/-- A display write keeps the number of slots. -/
@[simp] theorem length_writeSlot (n : Nat) (l : List (Option Byte)) (i : BitVec 4) (v : Byte) :
    (writeSlot n l i v).length = l.length := by
  unfold writeSlot; split <;> simp

/-- One slot after a display write (R165). -/
theorem getElem?_writeSlot (n : Nat) (l : List (Option Byte)) (i : BitVec 4) (v : Byte) (j : Nat) :
    (writeSlot n l i v)[j]? =
      if j = i.toNat ∧ j < n ∧ j < l.length then some (some v) else l[j]? := by
  unfold writeSlot
  by_cases hn : i.toNat < n <;> simp only [hn, if_true, if_false, List.getElem?_set]
  · by_cases hj : i.toNat = j
    · subst hj; by_cases hl : i.toNat < l.length <;> simp [hn, hl]
    · simp [hj, Ne.symm hj]
  · have : ¬(j = i.toNat ∧ j < n ∧ j < l.length) := by omega
    simp [this]

/-- The six display writes of patterns in ascending order. -/
def writeSix (l : List (Option Byte)) (b : Vector Byte 6) : List (Option Byte) :=
  writeSlot 6 (writeSlot 6 (writeSlot 6 (writeSlot 6 (writeSlot 6 (writeSlot 6 l 0#4 b[0]) 1#4 b[1])
    2#4 b[2]) 3#4 b[3]) 4#4 b[4]) 5#4 b[5]

/-- Six slots after the six writes hold what was written. -/
theorem writeSix_eq {l : List (Option Byte)} (b : Vector Byte 6) (h : l.length = 6) :
    writeSix l b = b.toList.map some := by
  obtain ⟨x0, x1, x2, x3, x4, x5, rfl⟩ : ∃ x0 x1 x2 x3 x4 x5, l = [x0, x1, x2, x3, x4, x5] := by
    match l, h with
    | [x0, x1, x2, x3, x4, x5], _ => exact ⟨x0, x1, x2, x3, x4, x5, rfl⟩
  apply List.ext_getElem (by simp [writeSix])
  intro i h1 h2
  have hi : i < 6 := by simpa using h2
  match i, hi with
  | 0, _ | 1, _ | 2, _ | 3, _ | 4, _ | 5, _ => simp [writeSix, writeSlot]

/-- RENDER as one update, whatever the number of slots: six turns of the environment and six display
writes in ascending order (R160, R72). -/
theorem render_writes {s : State} (hn : s.cfg.nslots = 6) : render s =
    { interludes 6 s with
      r := { s.r with slots := writeSix s.r.slots (shownPatterns s) }
      trace := s.trace ++ renderAccesses s } := by
  have hp := slotPattern_decompose s
  simp only [render, hn, show List.range 6 = [0, 1, 2, 3, 4, 5] from rfl, renderSlots, slotWrite,
    interlude_cfg, State.setSlots_cfg, State.record_cfg, hp 0 (by omega), hp 1 (by omega),
    hp 2 (by omega), hp 3 (by omega), hp 4 (by omega), hp 5 (by omega)]
  simp [State.record, State.setSlots, interlude, interludes, renderAccesses, writeSix]

/-- RENDER as one update: all slots are overwritten (R160). -/
theorem render_eq {s : State} (hn : s.cfg.nslots = 6) (hs : SlotsSized s) : render s =
    { interludes 6 s with
      r := { s.r with slots := shownSlots s }
      trace := s.trace ++ renderAccesses s } := by
  rw [render_writes hn, writeSix_eq _ (hs.trans hn), shownSlots]

end Sys2Proof.Machine
end

