-- ==== Sys2Proof/Laws/Exec.lean ====
section
/-! SUPPORT. What a command can do: admission under the usual premises, the outcome of exec in the two
cases of admission, and the part of the state that no block operation writes. -/

namespace Sys2Proof.Machine

/-! ### Sub-steps of the channels and the dispatcher -/

theorem setLatch_shell (v : Bool) (s : State) : SameShell s (s.setLatch v) :=
  ⟨rfl, rfl, rfl, rfl, rfl, rfl, rfl, rfl, rfl⟩

theorem setPhase_shell (f : Phase) (s : State) : SameShell s (s.setPhase f) :=
  ⟨rfl, rfl, rfl, rfl, rfl, rfl, rfl, rfl, rfl⟩

theorem setRes_shell (v : BitVec 32) (s : State) : SameShell s (s.setRes v) :=
  ⟨rfl, rfl, rfl, rfl, rfl, rfl, rfl, rfl, rfl⟩

theorem latchAndAdvance_shell (lvl : Bool) (s : State) : SameShell s (latchAndAdvance lvl s) := by
  cases lvl
  · exact setLatch_shell false s
  · exact ((setLatch_shell true s).trans (advanceTimes_shell _ _)).trans (render_shell _)

theorem serviceEdge_shell (s : State) : SameShell s (serviceEdge s) :=
  ((ackCap_shell true s).trans (readLine_shell _)).trans (latchAndAdvance_shell _ _)

theorem edgeService_shell (s : State) : SameShell s (edgeService s) := by
  unfold edgeService
  split
  · exact (readCap_shell s).trans (serviceEdge_shell _)
  · exact readCap_shell s

theorem applySwitches_shell (sws : Switches) (s : State) : SameShell s (applySwitches sws s) :=
  ((setField_shell _ _ s).trans (render_shell _)).trans (setPhase_shell _ _)

theorem pressStep_shell (s : State) : SameShell s (pressStep s) :=
  (readSwitches_shell s).trans (applySwitches_shell _ _)

theorem onButton_shell (b : Bool) (s : State) : SameShell s (onButton b s).2 := by
  unfold onButton
  cases s.r.phase <;> cases b
  · exact SameShell.refl s
  · exact pressStep_shell s
  · exact setPhase_shell _ s
  · exact SameShell.refl s

theorem levelService_shell (s : State) : SameShell s (levelService s).2 :=
  (readBtn_shell s).trans (onButton_shell _ _)

theorem divideAndShow_shell (s : State) : SameShell s (divideAndShow s) := by
  unfold divideAndShow
  split
  · exact ((tick_shell s).trans (advance_shell _)).trans (render_shell _)
  · exact tick_shell s

theorem timerServiceIrq_shell (s : State) : SameShell s (timerServiceIrq s) :=
  (ackTimer_shell s).trans (divideAndShow_shell _)

theorem beat_shell (s : State) : SameShell s (beat s) := ⟨rfl, rfl, rfl, rfl, rfl, rfl, rfl, rfl, rfl⟩

theorem timerServicePoll_shell (s : State) : SameShell s (timerServicePoll s) := by
  unfold timerServicePoll
  split
  · exact (((readTimerStatus_shell s).trans (ackTimer_shell _)).trans (beat_shell _)).trans
      (divideAndShow_shell _)
  · exact readTimerStatus_shell s

theorem dispatchCause_shell (c : Cause) (s : State) : SameShell s (dispatchCause c s) := by
  unfold dispatchCause
  cases classifyCause s.cfg c with
  | timer =>
    cases s.cfg.edgeLayout with
    | shared => exact (timerServiceIrq_shell s).trans (edgeService_shell _)
    | distinct => exact timerServiceIrq_shell s
  | edge => exact edgeService_shell s
  | unrecognised => exact SameShell.refl s

theorem pollIteration_shell (s : State) : SameShell s (pollIteration s) := by
  unfold pollIteration
  split
  · exact (levelService_shell s).trans (timerServicePoll_shell _)
  · exact levelService_shell s

/-! ### The sub-steps as state updates -/

/-- The acknowledgement of the capture bit (R40). -/
theorem ackCap_true (s : State) : ackCap true s =
    { interlude s with
      p := { (interlude s).p with cap := false }
      trace := s.trace ++ [.ackCap true] } := by
  simp [ackCap, State.record, State.setP, interlude]

/-- The edge channel after the capture bit was seen set, access by access (R180). -/
theorem serviceEdge_eq (s : State) : serviceEdge s =
    let b := interlude s
    let c := interlude { b with p := { b.p with cap := false } }
    latchAndAdvance c.p.line
      { c with trace := s.trace ++ [.ackCap true, .readLine c.p.line] } := by
  unfold serviceEdge
  rw [ackCap_true]
  simp [readLine, State.record, interlude]

/-- The edge channel's first access (R180). -/
theorem edgeService_eq (s : State) : edgeService s =
    if (interlude s).p.cap then
      serviceEdge { interlude s with trace := s.trace ++ [.readCap (interlude s).p.cap] }
    else { interlude s with trace := s.trace ++ [.readCap (interlude s).p.cap] } := rfl

/-- A tick that does not wrap (R140). -/
theorem divideAndShow_nowrap {s : State} (h : s.r.tick.toNat + 1 ≠ s.cfg.divisor) :
    divideAndShow s = { s with r := { s.r with tick := BitVec.ofNat 4 (s.r.tick.toNat + 1) } } := by
  simp [divideAndShow, tick_fst, tick_snd, wraps, h, State.setTick]

/-- A tick that wraps advances the time and renders (R142). -/
theorem divideAndShow_wrap {s : State} (h : s.r.tick.toNat + 1 = s.cfg.divisor) :
    divideAndShow s = render (advance { s with r := { s.r with tick := 0#4 } }) := by
  simp [divideAndShow, tick_fst, tick_snd, wraps, h, State.setTick]

/-- The timer path of the polling mode, access by access (R201). -/
theorem timerServicePoll_eq (s : State) : timerServicePoll s =
    let a := interlude s
    let b := interlude a
    if a.p.timeout then
      divideAndShow { b with
        r := { s.r with hb := (s.r.hb + 1) % 2 ^ s.cfg.hbW }
        p := { b.p with timeout := false }
        trace := s.trace ++ [.readTimerStatus true, .ackTimer] }
    else { a with trace := s.trace ++ [.readTimerStatus false] } := by
  unfold timerServicePoll
  cases h : (interlude s).p.timeout
  · simp [readTimerStatus, h, State.record]
  · simp [readTimerStatus, h, ackTimer, beat, State.record, State.setP, State.setHb]
    simp [interlude]

/-! ### Admission -/

/-- Once booted under a well-formed configuration, a command of both modes that carries no cause is
admitted (R87). -/
theorem refusalReason_free {i : Instr} {s : State} (hc : s.cfg.wellFormed = true)
    (hi : i.wellFormed s.cfg.swW = true) (hb : s.r.booted = true ∨ worksBeforeReset i = true)
    (hm : needsMode i = none ∨ needsMode i = some s.cfg.mode) (he : entryCause i = none) :
    refusalReason i s = none := by
  have hw : wrongMode i s.cfg.mode = false := by
    unfold wrongMode; rcases hm with h | h <;> simp [h]
  unfold refusalReason
  rcases hb with h | h <;> simp [hc, hi, h, hw, he]

/-- An admitted command executes. -/
theorem ifAdmitted_of_admitted {i : Instr} {s : State} {run : State → State}
    (h : refusalReason i s = none) : ifAdmitted i s run = .next (run s) := by
  unfold ifAdmitted; rw [h]

/-- A command that is not admitted is recorded. -/
theorem ifAdmitted_of_refused {i : Instr} {s : State} {run : State → State} {why : Reason}
    (h : refusalReason i s = some why) : ifAdmitted i s run = .next (s.refuse (encode i) why) := by
  unfold ifAdmitted; rw [h]

/-- What each command does once it is admitted. -/
def effect : Instr → State → State
  | .nop, s => s
  | .encode d, s => s.setRes ((enc s.cfg d).setWidth 32)
  | .blank, s => s.setRes (blankPat.setWidth 32)
  | .advance, s => advance s
  | .setf sel raw, s => setField sel.toNat raw.toNat s
  | .decomp, s => s.setRes (decompResult s)
  | .tick, s => (tick s).2.setRes ((BitVec.ofBool (tick s).1).setWidth 32)
  | .render, s => render s
  | .wslot idx pat, s => slotWrite idx pat s
  | .edgesvc, s => edgeService s
  | .levelsvc, s => (levelService s).2
  | .timersvcIrq, s => timerServiceIrq s
  | .timersvcPoll, s => timerServicePoll s
  | .irq cause, s => dispatchCause cause s
  | .poll, s => pollIteration s
  | .sw x, s => s.setP (applyEvent s.cfg s.p (.sw x))
  | .reset, s => markBooted (boot (clearForReset s))
  | .timeout, s => s.setP (applyEvent s.cfg s.p .timeout)
  | .line v, s => s.setP (applyEvent s.cfg s.p (.line v))
  | .btn v, s => s.setP (applyEvent s.cfg s.p (.btn v))

/-- Every meaning is the admission of its effect. -/
theorem exec_eq (i : Instr) (s : State) : exec i s = ifAdmitted i s (effect i) := by
  cases i <;> rfl

/-- An admitted command executes. -/
theorem exec_admitted {i : Instr} {s : State} (h : refusalReason i s = none) :
    exec i s = .next (effect i s) := by
  rw [exec_eq, ifAdmitted_of_admitted h]

/-- A command of both modes executes once booted (R87). -/
theorem exec_of_booted {i : Instr} {s : State} (hc : s.cfg.wellFormed = true)
    (hb : s.r.booted = true) (hi : i.wellFormed s.cfg.swW = true := by rfl)
    (hm : needsMode i = none := by rfl) (he : entryCause i = none := by rfl) :
    exec i s = .next (effect i s) :=
  exec_admitted (refusalReason_free hc hi (.inl hb) (.inl hm) he)

/-- A command of one mode executes once booted in that mode (R87). -/
theorem exec_of_mode {i : Instr} {s : State} {m : Mode} (hc : s.cfg.wellFormed = true)
    (hb : s.r.booted = true) (hs : s.cfg.mode = m) (hi : i.wellFormed s.cfg.swW = true := by rfl)
    (hm : needsMode i = some m := by rfl) (he : entryCause i = none := by rfl) :
    exec i s = .next (effect i s) :=
  exec_admitted (refusalReason_free hc hi (.inl hb) (.inr (by rw [hs]; exact hm)) he)

/-- RESET, LINE, BTN and SW execute at any time (R87). -/
theorem exec_at_any_time {i : Instr} {s : State} (hc : s.cfg.wellFormed = true)
    (hi : i.wellFormed s.cfg.swW = true) (hb : worksBeforeReset i = true := by rfl)
    (hm : needsMode i = none := by rfl) (he : entryCause i = none := by rfl) :
    exec i s = .next (effect i s) :=
  exec_admitted (refusalReason_free hc hi (.inr hb) (.inl hm) he)

/-- A command that is not admitted is recorded, and nothing else changes (R242). -/
theorem exec_refused {i : Instr} {s : State} {why : Reason} (h : refusalReason i s = some why) :
    exec i s = .next (s.refuse (encode i) why) := by
  rw [exec_eq, ifAdmitted_of_refused h]

/-- An admitted interrupt entry meets every condition of R246. -/
theorem entry_admitted {c : Cause} {s : State} (h : refusalReason (.irq c) s = none) :
    s.cfg.wellFormed = true ∧ s.r.booted = true ∧ s.cfg.mode = .irq ∧ entryRefusal s c = none := by
  unfold refusalReason at h
  cases hc : s.cfg.wellFormed <;> cases hb : s.r.booted <;> cases hm : s.cfg.mode <;>
    simp_all [Instr.wellFormed, worksBeforeReset, wrongMode, needsMode, entryCause]

/-- An environment event writes the platform only, and no control field. -/
theorem setP_applyEvent_shell (s : State) (e : EnvEvent) :
    SameShell s (s.setP (applyEvent s.cfg s.p e)) := by
  obtain ⟨a, b, c, d, f⟩ := applyEvent_control s.cfg s.p e
  exact ⟨rfl, rfl, rfl, rfl, a, b, c, d, f⟩

/-- Every command but RESET keeps the shell. -/
theorem effect_shell {i : Instr} (hne : i ≠ .reset) (s : State) : SameShell s (effect i s) := by
  cases i with
  | reset => exact absurd rfl hne
  | nop => exact SameShell.refl s
  | encode d => exact setRes_shell _ s
  | blank => exact setRes_shell _ s
  | advance => exact advance_shell s
  | setf sel raw => exact setField_shell sel.toNat raw.toNat s
  | decomp => exact setRes_shell _ s
  | tick => exact (tick_shell s).trans (setRes_shell _ _)
  | render => exact render_shell s
  | wslot idx pat => exact slotWrite_shell idx pat s
  | edgesvc => exact edgeService_shell s
  | levelsvc => exact levelService_shell s
  | timersvcIrq => exact timerServiceIrq_shell s
  | timersvcPoll => exact timerServicePoll_shell s
  | irq c => exact dispatchCause_shell c s
  | poll => exact pollIteration_shell s
  | sw x => exact setP_applyEvent_shell s (.sw x)
  | timeout => exact setP_applyEvent_shell s .timeout
  | line v => exact setP_applyEvent_shell s (.line v)
  | btn v => exact setP_applyEvent_shell s (.btn v)

/-- What a command can do, seen from outside: be refused, be RESET, or keep the shell. -/
theorem exec_cases {i : Instr} {s t : State} (h : exec i s = .next t) :
    (∃ why, refusalReason i s = some why ∧ t = s.refuse (encode i) why) ∨
    (refusalReason i s = none ∧ i = .reset ∧ t = markBooted (boot (clearForReset s))) ∨
    (refusalReason i s = none ∧ i ≠ .reset ∧ t = effect i s ∧ SameShell s t) := by
  cases hr : refusalReason i s with
  | some why =>
    rw [exec_refused hr] at h
    injection h with h
    exact .inl ⟨why, rfl, h.symm⟩
  | none =>
    rw [exec_admitted hr] at h
    injection h with h
    subst h
    by_cases hne : i = .reset
    · subst hne
      exact .inr (.inl ⟨rfl, rfl, rfl⟩)
    · exact .inr (.inr ⟨rfl, hne, rfl, effect_shell hne s⟩)

end Sys2Proof.Machine
end

