-- ==== Sys2Proof/Laws/PerInstr.lean ====
section
/-! SUPPORT. The family MatchesRow, one lemma per constructor: the word of a command that is well-formed at
the opcode table's switch width matches its row of spec/opcode_table.json. -/

namespace Sys2Proof.Laws.MatchesRow

/-- The mask and the match of a command's row of spec/opcode_table.json. -/
def row : Instr → Word × Word
  | .nop => (0xFFFF#16, 0x0000#16)
  | .encode _ => (0xFFF0#16, 0x1000#16)
  | .blank => (0xFFFF#16, 0x2000#16)
  | .advance => (0xFFFF#16, 0x3000#16)
  | .setf _ _ => (0xFC00#16, 0x4000#16)
  | .decomp => (0xFFFF#16, 0x5000#16)
  | .tick => (0xFFFF#16, 0x6000#16)
  | .render => (0xFFFF#16, 0x7000#16)
  | .wslot _ _ => (0xF000#16, 0x8000#16)
  | .edgesvc => (0xFFFF#16, 0x9000#16)
  | .levelsvc => (0xFFFF#16, 0xA000#16)
  | .timersvcIrq => (0xFFFF#16, 0xB000#16)
  | .timersvcPoll => (0xFFFF#16, 0xB001#16)
  | .irq _ => (0xF000#16, 0xC000#16)
  | .poll => (0xFFFF#16, 0xD000#16)
  | .sw _ => (0xFC00#16, 0xE000#16)
  | .reset => (0xFFFF#16, 0xF000#16)
  | .timeout => (0xFFFF#16, 0xF100#16)
  | .line _ => (0xFFFE#16, 0xF200#16)
  | .btn _ => (0xFFFE#16, 0xF300#16)

/-- The word of a command that is well-formed at the table's switch width has its row's fixed bits. -/
def Statement (i : Instr) : Prop :=
  i.wellFormed Config.tableSwW = true → encode i &&& (row i).1 = (row i).2

theorem nop : Statement .nop := fun _ => rfl

theorem encode (d : BitVec 4) : Statement (.encode d) := by
  intro _; revert d; decide

theorem blank : Statement .blank := fun _ => rfl

theorem advance : Statement .advance := fun _ => rfl

theorem setf (sel : BitVec 2) (raw : Byte) : Statement (.setf sel raw) := by
  intro _
  change (0x4#4 ++ 0#2 ++ sel ++ raw) &&& (0xF#4 ++ 3#2 ++ 0#2 ++ 0#8) = _
  rw [BitVec.and_append, BitVec.and_append, BitVec.and_zero, BitVec.and_zero]
  rfl

theorem decomp : Statement .decomp := fun _ => rfl

theorem tick : Statement .tick := fun _ => rfl

theorem render : Statement .render := fun _ => rfl

theorem wslot (idx : BitVec 4) (pat : Byte) : Statement (.wslot idx pat) := by
  intro _
  change (0x8#4 ++ idx ++ pat) &&& (0xF#4 ++ 0#4 ++ 0#8) = _
  rw [BitVec.and_append, BitVec.and_append, BitVec.and_zero, BitVec.and_zero]
  rfl

theorem edgesvc : Statement .edgesvc := fun _ => rfl

theorem levelsvc : Statement .levelsvc := fun _ => rfl

theorem timersvcIrq : Statement .timersvcIrq := fun _ => rfl

theorem timersvcPoll : Statement .timersvcPoll := fun _ => rfl

theorem irq (cause : Cause) : Statement (.irq cause) := by
  intro _
  change (0xC#4 ++ cause) &&& (0xF#4 ++ 0#12) = _
  rw [BitVec.and_append, BitVec.and_zero]
  rfl

theorem poll : Statement .poll := fun _ => rfl

theorem sw (s : Switches) : Statement (.sw s) := by
  intro h
  have hs : s.toNat < 2 ^ 10 := of_decide_eq_true h
  have hz : s &&& 0xC00#12 = 0#12 := by
    ext i hi
    by_cases hlt : i < 10
    · have : (0xC00#12).getLsbD i = false := by revert hlt; revert i; decide
      simp [← BitVec.getLsbD_eq_getElem, this]
    · have : s.getLsbD i = false :=
        Nat.testBit_lt_two_pow (lt_of_lt_of_le hs (Nat.pow_le_pow_right (by omega) (by omega)))
      simp [← BitVec.getLsbD_eq_getElem, this]
  change (0xE#4 ++ s) &&& (0xF#4 ++ 0xC00#12) = _
  rw [BitVec.and_append, hz]
  rfl

theorem reset : Statement .reset := fun _ => rfl

theorem timeout : Statement .timeout := fun _ => rfl

theorem line (v : Bool) : Statement (.line v) := by
  intro _; cases v <;> rfl

theorem btn (v : Bool) : Statement (.btn v) := by
  intro _; cases v <;> rfl

end Sys2Proof.Laws.MatchesRow
end

