-- ==== Sys2Proof/Tests/Slice0.lean ====
section
/-! SUPPORT. Tests: words written out from the formats of 30_encoding.md R81, ill-formed terms the checks
refuse, at most two single steps for each command with the expected result of a vector of
95_test_vectors.md (its name in the docstring), and one witness for the hypotheses of each statement. -/

namespace Sys2Proof.Machine

/-! ### Small states -/

/-- A profile of R9 with `INIT_TIME` h:m:s, right after RESET, with launch inputs 0. -/
def start (profile : TimeValue → Config) (h m s : Nat) : State :=
  State.resetWith (profile { hr := h, min := m, sec := s }) false false 0#12

/-- A state with another divider counter. -/
def State.withTick (s : State) (n : Nat) : State := s.setTick n

/-- A state with the timeout flag set. -/
def State.withTimeout (s : State) : State := { s with p := { s.p with timeout := true } }

/-- A state with the capture bit set and a line level. -/
def State.withCapture (s : State) (level : Bool) : State :=
  { s with p := { s.p with cap := true, line := level } }

/-- A state with a button level and switch levels. -/
def State.withInputs (s : State) (b : Bool) (x : Switches) : State :=
  { s with p := { s.p with btn := b, sw := x } }

/-- A field of the state a command leads to. -/
def after {α : Type} (i : Instr) (s : State) (f : State → α) : Option α :=
  match exec i s with
  | .next t => some (f t)
  | .fault _ => none
  | .refused _ => none

/-- Hours, minutes and seconds. -/
def hms (s : State) : Nat × Nat × Nat := (s.r.hr.toNat, s.r.min.toNat, s.r.sec.toNat)

/-- The slots, slot 0 first; `none` is `UNSET`. -/
def slotValues (s : State) : List (Option Nat) := s.r.slots.map fun v => v.map BitVec.toNat

/-- The reasons recorded so far. -/
def reasons (s : State) : List Reason := s.refusals.map fun e => e.reason

/-! ### Decoding: one word per row, its bits written out from R81 and R83 -/

theorem test_decode_nop : decode 10 0b0000_000000000000#16 = .ok .nop := by decide
theorem test_decode_encode : decode 10 0b0001_00000000_0110#16 = .ok (.encode 6#4) := by decide
theorem test_decode_blank : decode 10 0b0010_000000000000#16 = .ok .blank := by decide
theorem test_decode_advance : decode 10 0b0011_000000000000#16 = .ok .advance := by decide
theorem test_decode_setf : decode 10 0b0100_00_10_00111011#16 = .ok (.setf 2#2 59#8) := by decide
theorem test_decode_decomp : decode 10 0b0101_000000000000#16 = .ok .decomp := by decide
theorem test_decode_tick : decode 10 0b0110_000000000000#16 = .ok .tick := by decide
theorem test_decode_render : decode 10 0b0111_000000000000#16 = .ok .render := by decide
theorem test_decode_wslot : decode 10 0b1000_1111_00010010#16 = .ok (.wslot 15#4 0x12#8) := by decide
theorem test_decode_edgesvc : decode 10 0b1001_000000000000#16 = .ok .edgesvc := by decide
theorem test_decode_levelsvc : decode 10 0b1010_000000000000#16 = .ok .levelsvc := by decide
theorem test_decode_timersvcIrq : decode 10 0b1011_00000000000_0#16 = .ok .timersvcIrq := by decide
theorem test_decode_timersvcPoll : decode 10 0b1011_00000000000_1#16 = .ok .timersvcPoll := by decide
theorem test_decode_irq : decode 10 0b1100_111111111111#16 = .ok (.irq 4095#12) := by decide
theorem test_decode_poll : decode 10 0b1101_000000000000#16 = .ok .poll := by decide
theorem test_decode_sw : decode 10 0b1110_00_1000101010#16 = .ok (.sw 0x22A#12) := by decide
theorem test_decode_reset : decode 10 0b1111_0000_00000000#16 = .ok .reset := by decide
theorem test_decode_timeout : decode 10 0b1111_0001_00000000#16 = .ok .timeout := by decide
theorem test_decode_line : decode 10 0b1111_0010_0000000_0#16 = .ok (.line false) := by decide
theorem test_decode_btn : decode 10 0b1111_0011_0000000_0#16 = .ok (.btn false) := by decide

/-- V-DEC-1, V-DEC-2, V-DEC-5, V-DEC-6, V-ENC-9, V-TR-24. -/
theorem test_decode_refuses_reserved_bits :
    [0x0001#16, 0x3100#16, 0xF101#16, 0xF202#16, 0x1010#16, 0x4400#16].map (decode 10) =
      List.replicate 6 (.error .reservedBits) := by decide

/-- R81, format V: with `SW_W = 12` every operand is a switch value, with `SW_W = 8` bit 8 is reserved. -/
theorem test_decode_sw_width :
    decode 12 0xEFFF#16 = .ok (.sw 0xFFF#12) ∧ decode 8 0xE100#16 = .error .reservedBits := by decide

/-- The table's numbering: one 16-bit word, bit 0 the least significant. -/
theorem test_decodeTableWord :
    decodeTableWord 16 0xC010 = some (.irq 16#12) ∧ decodeTableWord 16 0xE400 = none ∧
      decodeTableWord 32 0 = none := by decide

/-! ### Well-formedness: a term each check accepts, and one it refuses -/

theorem test_profiles_wellFormed :
    [Config.tp1, Config.tp2, Config.tp3, Config.tp4].map
      (fun p => (p { hr := 0, min := 59, sec := 57 }).wellFormed) = [true, true, true, true] := by
  decide

/-- TP1 at midnight, to be made ill-formed in one field. -/
def tp1Zero : Config := Config.tp1 { hr := 0, min := 0, sec := 0 }

theorem test_hmod_refused : ({ tp1Zero with hmod := 12 } : Config).wellFormed = false := by decide
theorem test_divisor_zero_refused : ({ tp1Zero with divisor := 0 } : Config).wellFormed = false := by
  decide
theorem test_divisor_16_refused : ({ tp1Zero with divisor := 16 } : Config).wellFormed = false := by
  decide
theorem test_edgeAdv_refused : ({ tp1Zero with edgeAdv := 3 } : Config).wellFormed = false := by decide
theorem test_swW_low_refused : ({ tp1Zero with swW := 7 } : Config).wellFormed = false := by decide
theorem test_swW_high_refused : ({ tp1Zero with swW := 13 } : Config).wellFormed = false := by decide
theorem test_hbW_refused : ({ tp1Zero with hbW := 0 } : Config).wellFormed = false := by decide
theorem test_literals_refused :
    [{ tp1Zero with smod := 59 }, { tp1Zero with mmod := 61 }, { tp1Zero with nslots := 5 },
        { tp1Zero with slotW := 7 }, { tp1Zero with selW := 3 },
        { tp1Zero with valW := 5 }].map Config.wellFormed = List.replicate 6 false := by decide
theorem test_selector_outside_refused :
    ({ tp1Zero with selLsb := 9 } : Config).wellFormed = false := by decide
theorem test_value_outside_refused :
    ({ tp1Zero with selLsb := 0, valLsb := 5 } : Config).wellFormed = false := by decide
theorem test_fields_overlap_refused :
    ({ tp1Zero with selLsb := 5 } : Config).wellFormed = false := by decide
theorem test_equal_causes_refused :
    ({ tp1Zero with causeEdge := 16#12 } : Config).wellFormed = false := by decide
theorem test_initTime_refused :
    (Config.tp1 { hr := 24, min := 0, sec := 0 }).wellFormed = false ∧
      (Config.tp1 { hr := 0, min := 60, sec := 0 }).wellFormed = false ∧
      (Config.tp1 { hr := 0, min := 0, sec := 60 }).wellFormed = false ∧
      (Config.tp2 { hr := 1, min := 0, sec := 0 }).wellFormed = false := by decide
theorem test_decimal_point_refused :
    ({ tp1Zero with encTable := tp1Zero.encTable.set 3 0x30#8 } : Config).wellFormed = false := by
  decide
theorem test_switch_operand_refused : (Instr.sw 1024#12).wellFormed 10 = false := by decide
theorem test_switch_event_refused : (EnvEvent.sw 256#12).wellFormed 8 = false := by decide

/-! ### The digit encoder -/

/-- V-ENC-3. -/
theorem test_encode_digit : after (.encode 3#4) (start Config.tp1 0 0 0) (·.r.res) = some 0xB0#32 := by
  decide

/-- V-ENC-6. -/
theorem test_encode_high : after (.encode 10#4) (start Config.tp1 0 0 0) (·.r.res) = some 0x88#32 := by
  decide

/-- V-ENC-8. -/
theorem test_blank : after .blank (start Config.tp1 0 0 0) (·.r.res) = some 0xFF#32 := by decide

/-! ### The time register -/

/-- V-TR-4. -/
theorem test_advance_midnight :
    after .advance (start Config.tp1 23 59 59) hms = some (0, 0, 0) := by decide

/-- V-TR-5. -/
theorem test_advance_hours_of_100 :
    after .advance (start Config.tp3 23 59 59) hms = some (24, 0, 0) := by decide

/-- V-TR-8. -/
theorem test_setf_reduces :
    after (.setf 1#2 75#8) (start Config.tp1 12 34 56) hms = some (12, 34, 15) := by decide

/-- V-TR-18. -/
theorem test_setf_hours_in_ms :
    after (.setf 3#2 63#8) (start Config.tp2 0 12 34) hms = some (0, 12, 34) := by decide

/-- V-TR-20. -/
theorem test_decomp_hms :
    after .decomp (start Config.tp1 12 34 56) (·.r.res) = some 0x06123456#32 := by decide

/-- V-TR-21. -/
theorem test_decomp_ms :
    after .decomp (start Config.tp2 0 59 57) (·.r.res) = some 0x04005957#32 := by decide

/-! ### The rate divider -/

/-- V-RD-3. -/
theorem test_tick_wraps :
    after .tick ((start Config.tp1 12 34 56).withTick 9) (fun t => (t.r.tick, t.r.res, hms t)) =
      some (0#4, 1#32, 12, 34, 56) := by decide

/-- V-RD-2. -/
theorem test_tick_counts :
    after .tick ((start Config.tp1 0 0 0).withTick 8) (fun t => (t.r.tick, t.r.res)) =
      some (9#4, 0#32) := by decide

/-! ### The display renderer -/

/-- V-RND-1. -/
theorem test_render_hms :
    after .render (start Config.tp1 12 34 56) slotValues =
      some [some 0x82, some 0x92, some 0x99, some 0xB0, some 0xA4, some 0xF9] := by decide

/-- V-RND-2. -/
theorem test_render_ms :
    after .render (start Config.tp2 0 59 57) slotValues =
      some [some 0xF8, some 0x92, some 0x90, some 0x92, some 0xFF, some 0xFF] := by decide

/-- V-RND-7. -/
theorem test_wslot :
    after (.wslot 5#4 0xF9#8) (start Config.tp1 0 0 0) slotValues =
      some [none, none, none, none, none, some 0xF9] := by decide

/-- V-RND-8. -/
theorem test_wslot_beyond :
    after (.wslot 6#4 0#8) (start Config.tp1 0 0 0) slotValues =
      some [none, none, none, none, none, none] := by decide

/-! ### The input edge detector -/

/-- V-ED-8. -/
theorem test_edgesvc_active :
    after .edgesvc ((start Config.tp3 0 0 58).withCapture true) (fun t => (t.p.cap, hms t)) =
      some (false, 0, 1, 0) := by decide

/-- V-ED-3. -/
theorem test_edgesvc_inactive :
    after .edgesvc ((start Config.tp1 0 0 0).withCapture false)
      (fun t => (t.p.cap, t.r.latchLevel, hms t)) = some (false, false, 0, 0, 0) := by decide

/-- V-ED-10. -/
theorem test_levelsvc_press :
    after .levelsvc ((start Config.tp4 12 34 56).withInputs true 0x33F#12)
      (fun t => (hms t, t.r.phase)) = some ((15, 34, 56), .waitRelease) := by decide

/-- V-ED-15. -/
theorem test_levelsvc_renders_unchanged_time :
    after .levelsvc ((start Config.tp2 0 12 34).withInputs true 0x33F#12) slotValues =
      some [some 0x99, some 0xB0, some 0xA4, some 0xF9, some 0xFF, some 0xFF] := by decide

/-! ### The event dispatcher -/

/-- V-DSP-16. -/
theorem test_nop :
    after .nop (start Config.tp1 12 34 56) (fun t => (hms t, reasons t)) = some ((12, 34, 56), []) := by
  decide

/-- V-DSP-8. -/
theorem test_timersvcIrq_without_timeout :
    after .timersvcIrq (start Config.tp1 0 0 0) (·.r.tick) = some 1#4 := by decide

/-- V-DSP-9. -/
theorem test_timersvcPoll_without_timeout :
    after .timersvcPoll (start Config.tp2 0 0 0) (fun t => (t.r.tick, t.r.hb)) = some (0#4, 0) := by
  decide

/-- V-DSP-10. -/
theorem test_timersvcPoll :
    after .timersvcPoll (start Config.tp2 0 0 0).withTimeout
      (fun t => (t.p.timeout, t.r.hb, t.r.tick)) = some (false, 1, 1#4) := by decide

/-- V-DSP-7. -/
theorem test_irq_shared :
    after (.irq 16#12) (((start Config.tp3 0 0 58).withCapture true).withTimeout.withTick 9)
      (fun t => (hms t, t.r.tick, t.p.cap)) = some ((0, 1, 1), 0#4, false) := by decide

/-- V-DSP-3. -/
theorem test_irq_not_pending :
    after (.irq 16#12) (start Config.tp1 0 0 0) reasons = some [.irqNotPending] := by decide

/-- V-DSP-12. -/
theorem test_poll_press :
    after .poll ((start Config.tp2 0 0 0).withInputs true 0#12).withTimeout
      (fun t => (t.p.timeout, t.r.phase, t.r.tick)) = some (true, .waitRelease, 0#4) := by decide

/-- V-DSP-13. -/
theorem test_poll_release :
    after .poll ((start Config.tp2 0 0 0).setPhase .waitRelease).withTimeout
      (fun t => (t.p.timeout, t.r.phase)) = some (false, .sample) := by decide

/-! ### Reset and environment events -/

/-- V-DSP-20. -/
theorem test_reset :
    after .reset ((start Config.tp4 0 0 59).setPhase .waitRelease).withTimeout
      (fun t => (t.r.phase, t.p.timeout, hms t)) = some (.sample, false, 0, 0, 59) := by decide

/-- V-DSP-18. -/
theorem test_boot_shared :
    after .reset (start Config.tp3 0 0 0) (fun t => (t.p.timIto, t.p.capIe, t.p.ie)) =
      some (true, false, true) := by decide

/-- R221. -/
theorem test_timeout :
    after .timeout (start Config.tp1 0 0 0) (·.p.timeout) = some true := by decide

/-- V-ED-5. -/
theorem test_line_falling :
    after (.line false)
      (State.resetWith { tp1Zero with edgePolarity := .fall } true false 0#12) (·.p.cap) = some true := by
  decide

/-- V-ED-4. -/
theorem test_line_polarity :
    after (.line false)
      (State.resetWith { tp1Zero with edgePolarity := .rise } true false 0#12) (·.p.cap) = some false := by
  decide

/-- V-DSP-22. -/
theorem test_btn_before_reset :
    after (.btn true) (State.powerOn tp1Zero false false 0#12) (fun t => (t.p.btn, reasons t)) =
      some (true, []) := by decide

/-- V-DEC-8. -/
theorem test_sw : after (.sw 1023#12) (start Config.tp1 0 0 0) (·.p.sw) = some 1023#12 := by decide

/-- V-DEC-10: the `NOT_RESET` row comes before the others. -/
theorem test_not_reset_first :
    after (.irq 5#12) (State.powerOn tp1Zero false false 0#12) reasons = some [.notReset] := by decide

/-! ### The assembler -/

/-- V-TR-8 and R89: decimal and hexadecimal numbers, comments, a dotted mnemonic. -/
theorem test_assemble :
    assemble tp1Zero [.line "SETF 1, 75 ; set", .line "WSLOT 0x5,0xF9", .line "TIMERSVC.POLL",
        .repeatBlock 2 [.line "TICKIRQ"]] =
      .ok [0x414B#16, 0x85F9#16, 0xB001#16, 0xF100#16, 0xC010#16, 0xF100#16, 0xC010#16] := by decide

/-- R89: an operand out of its range, and an unknown mnemonic. -/
theorem test_assemble_refuses :
    assembleLine tp1Zero "ENCODE 16" = .error .outOfRange ∧
      assembleLine tp1Zero "HALT" = .error .unknownMnemonic := by decide

/-! ### Witnesses: for each statement with hypotheses, states and operands that meet them -/

/-- TP1 at 12:34:56. -/
def s1 : State := start Config.tp1 12 34 56

/-- TP2 at 12:34. -/
def s2 : State := start Config.tp2 0 12 34

/-- TP3 at 99:59:58. -/
def s3 : State := start Config.tp3 99 59 58

/-- TP4 at 23:59:59. -/
def s4 : State := start Config.tp4 23 59 59

/-- TP1 with an ill-formed divisor. -/
def sBad : State := State.resetWith { tp1Zero with divisor := 0 } false false 0#12

/-- A state with command words. -/
def State.withCommands (s : State) (ws : List Word) : State := { s with commands := ws }

/-- A state with a schedule of events. -/
def State.withEvents (s : State) (es : List (List EnvEvent)) : State := { s with env := es }

theorem s2_inRange : TimeInRange s2 := ⟨by decide, by decide, by decide, fun _ => by decide⟩
theorem s3_inRange : TimeInRange s3 := ⟨by decide, by decide, fun _ => by decide, by decide⟩

/-- A state in mid-run, with a schedule, that meets the invariant. -/
theorem s2_inv : Inv ((s2.withTimeout.withInputs true 0x33F#12).withEvents [[.sw 1#12], [.timeout]]) where
  cfg := by decide
  slots := rfl
  sw := by decide
  schedule := by decide
  before h := absurd h (by decide)
  after _ :=
    ⟨⟨⟨by decide, by decide, by decide, fun _ => by decide⟩, by decide, by decide, by decide⟩,
      ⟨by decide, by decide, by decide, by decide, by decide⟩⟩

theorem witness_DecodeOfEncode : (Instr.sw 1023#12).wellFormed 10 = true ∧
    (Instr.sw 4095#12).wellFormed 12 = true ∧ (Instr.sw 0#12).wellFormed 8 = true := by decide
theorem witness_EncodeOfDecode : decode 10 0xE3FF#16 = .ok (.sw 1023#12) := by decide
theorem witness_ReservedWordsAreRefused : ∃ s : State,
    s.cfg.wellFormed = true ∧ s.commands = [0xF400#16, 0xF301#16] ∧
      ReservedWord s.cfg.swW 0xF400#16 ∧ ¬ ReservedWord s.cfg.swW 0xF301#16 := by
  refine ⟨s1.withCommands [0xF400#16, 0xF301#16], by decide, rfl, ?_, ?_⟩ <;> simp [ReservedWord]

/-- For each case of R84 the first word it refuses, and the word before it, which it lets pass. -/
theorem witness_reserved_boundaries :
    (∀ op ∈ [0, 2, 3, 5, 6, 7, 9, 10, 13],
      ReservedWord 10 (BitVec.ofNat 16 (op * 4096 + 1)) ∧
        ¬ ReservedWord 10 (BitVec.ofNat 16 (op * 4096))) ∧
    (∀ w ∈ [0x1010, 0x4400, 0xB002, 0xE400, 0xF001, 0xF101, 0xF202, 0xF302, 0xF400],
      ReservedWord 10 (BitVec.ofNat 16 w)) ∧
    (∀ w ∈ [0x100F, 0x43FF, 0xB001, 0xE3FF, 0xF000, 0xF100, 0xF201, 0xF301],
      ¬ ReservedWord 10 (BitVec.ofNat 16 w)) := by
  simp [ReservedWord]
theorem witness_AcceptedWordCounts : 0 ≤ 12 ∧ 12 ≤ 12 := by decide
theorem witness_IllFormedConfigurationRefuses : ∃ s : State,
    s.cfg.wellFormed = false ∧ s.commands = [0xF000#16] := ⟨sBad.withCommands [0xF000#16], by decide⟩
theorem witness_StepRunsDecodedCommand : ∃ s : State,
    s.commands = [0x3000#16] ∧ decode s.cfg.swW 0x3000#16 = .ok .advance :=
  ⟨s1.withCommands [0x3000#16], by decide⟩
theorem witness_NoCommandLeavesStateAlone : s1.commands = [] := by decide

/-- Each row of the admission table, and commands that match none. -/
theorem witness_AdmissionTable :
    refusalReason .reset sBad = some .config ∧
    refusalReason (.sw 1024#12) s1 = some .rsvEncoding ∧
    refusalReason .nop (State.powerOn tp1Zero false false 0#12) = some .notReset ∧
    refusalReason .levelsvc s1 = some .wrongMode ∧
    refusalReason (.irq 5#12) s2 = some .wrongMode ∧
    refusalReason (.irq 16#12) { s1 with p := { s1.p with ie := false } } = some .irqDisabled ∧
    refusalReason (.irq 16#12) s1 = some .irqNotPending ∧
    refusalReason (.irq 17#12) s1 = some .irqNotPending ∧
    refusalReason (.irq 16#12) s1.withTimeout = none ∧
    refusalReason (.irq 17#12) (s1.withCapture false) = none ∧
    refusalReason (.irq 5#12) s1 = none ∧
    refusalReason (.line true) (State.powerOn tp1Zero false false 0#12) = none ∧
    refusalReason .poll s2 = none := by decide
theorem witness_RefusalMarkPersists :
    refusalReason .poll s1 = some .wrongMode ∧ (∃ t, step (s1.withCommands [0xD000#16]) = .next t) ∧
      (s1.refuse 0xD000#16 .wrongMode).refusalMark = true := ⟨by decide, ⟨_, rfl⟩, by decide⟩
theorem witness_EveryStepKeepsInvariant : ∃ s t, Inv s ∧ step s = .next t := ⟨_, _, s2_inv, rfl⟩
theorem witness_InvariantHoldsAtStart :
    (Config.tp3 { hr := 99, min := 59, sec := 59 }).wellFormed = true ∧
      fitsSwitches 10 1023#12 = true := by decide
theorem witness_ConfigurationIsFixed :
    (∃ t, step (s1.withCommands [0x3000#16]) = .next t) ∧ ∃ t, exec .reset s1 = .next t :=
  ⟨⟨_, rfl⟩, _, rfl⟩
theorem witness_OnlyResetWritesControlFields :
    Instr.render ≠ .reset ∧ ∃ t, exec .render s1 = .next t := ⟨by decide, _, rfl⟩
theorem witness_BootedOnceReset :
    (∃ t, step (s1.withCommands [0x3000#16]) = .next t) ∧ s1.r.booted = true ∧
      ∃ t, step ((State.powerOn tp1Zero false false 0#12).withCommands [0xF000#16]) = .next t ∧
        t.r.booted = true := ⟨⟨_, rfl⟩, by decide, _, rfl, by decide⟩
theorem witness_BootedOnceReset_commands :
    tp1Zero.wellFormed = true ∧ (∃ t, exec .advance s1 = .next t) ∧
      ∃ t, exec .reset (State.powerOn tp1Zero false false 0#12) = .next t ∧ t.r.booted = true :=
  ⟨by decide, ⟨_, rfl⟩, _, rfl, by decide⟩

theorem witness_EncodeShowsPattern : s1.cfg.wellFormed = true ∧ s1.r.booted = true := by decide
theorem witness_BlankShowsAllOff : s2.cfg.wellFormed = true ∧ s2.r.booted = true := by decide
theorem witness_AdvanceCascades : s4.cfg.wellFormed = true ∧ s4.r.booted = true := by decide
theorem witness_AdvanceCountingLaw :
    s3.cfg.wellFormed = true ∧ s3.r.booted = true ∧ TimeInRange s3 ∧ s3.cfg.variant = .hms :=
  ⟨by decide, by decide, s3_inRange, by decide⟩
theorem witness_SetfWritesOneUnit : s3.cfg.wellFormed = true ∧ s3.r.booted = true := by decide
theorem witness_DecompShowsDigits : s2.cfg.wellFormed = true ∧ s2.r.booted = true ∧ TimeInRange s2 :=
  ⟨by decide, by decide, s2_inRange⟩
theorem witness_PackedViewIsDecimal : TimeInRange s2 ∧ s2.cfg.variant = .ms := ⟨s2_inRange, by decide⟩
theorem witness_TickDivides : ∃ s : State, s.cfg.wellFormed = true ∧ s.r.booted = true :=
  ⟨s1.withTick 9, by decide⟩
theorem witness_TickCountingLaw : ∃ s : State, s.cfg.wellFormed = true ∧ s.r.booted = true ∧
    s.r.tick.toNat < s.cfg.divisor ∧ 1 ≤ 17 := ⟨s1.withTick 9, by decide⟩
theorem witness_RenderShowsTime :
    s1.cfg.wellFormed = true ∧ s1.r.booted = true ∧ SlotsSized s1 := ⟨by decide, by decide, rfl⟩
theorem witness_RenderIsIdempotent : s1.cfg.wellFormed = true ∧ s1.r.booted = true ∧
    SlotsSized s1 ∧ SlotsSized (s1.withTick 3) ∧ (∃ t, exec .render s1 = .next t) ∧
    (s1.withTick 3).cfg = s1.cfg ∧ (s1.withTick 3).r.sec = s1.r.sec ∧
    ∃ t, exec .render (s1.withTick 3) = .next t :=
  ⟨by decide, by decide, rfl, rfl, ⟨_, rfl⟩, rfl, rfl, _, rfl⟩
theorem witness_RenderUsesDigitTableOnly :
    s2.cfg.wellFormed = true ∧ s2.r.booted = true ∧ TimeInRange s2 ∧ SlotsSized s2 :=
  ⟨by decide, by decide, s2_inRange, rfl⟩
theorem witness_WslotWritesOneSlot :
    s1.cfg.wellFormed = true ∧ s1.r.booted = true ∧ SlotsSized s1 := ⟨by decide, by decide, rfl⟩
theorem witness_ObservedSlots : s1.cfg.wellFormed = true ∧
    ∃ t u, exec .reset s1 = .next t ∧ exec .render t = .next u := ⟨by decide, _, _, rfl, rfl⟩

/-- The three paths: nothing captured, a capture with the line inactive, one with it active. -/
theorem witness_EdgeServicePaths :
    (s1.cfg.wellFormed = true ∧ s1.r.booted = true ∧ s1.cfg.mode = .irq ∧
      (interlude s1).p.cap = false) ∧
    (∃ s : State, s.cfg.wellFormed = true ∧ s.r.booted = true ∧ s.cfg.mode = .irq ∧
      (interlude s).p.cap = true ∧ (ackCap true (readCap s).2).p.line = false) ∧
    (∃ s : State, s.cfg.wellFormed = true ∧ s.r.booted = true ∧ s.cfg.mode = .irq ∧
      (interlude s).p.cap = true ∧ (ackCap true (readCap s).2).p.line = true) :=
  ⟨by decide, ⟨s1.withCapture false, by decide⟩, s1.withCapture true, by decide⟩

/-- The capture and the level come in events inside the operation. -/
theorem witness_EdgeServiceCallCounts : ∃ s : State,
    s.cfg.wellFormed = true ∧ s.r.booted = true ∧ s.cfg.mode = .irq ∧ SlotsSized s ∧
      s.p.cap = false ∧ s.p.line = false ∧ (interlude s).p.cap = true ∧
      (interlude (ackCap true (readCap s).2)).p.line = true :=
  ⟨s3.withEvents [[.line true, .line false], [], [.line true]], by decide, by decide, by decide, rfl,
    by decide⟩

/-- The four paths: the two phases, with the button released and asserted. -/
theorem witness_LevelServicePaths :
    (∃ s : State, s.cfg.wellFormed = true ∧ s.r.booted = true ∧ s.cfg.mode = .poll ∧
      s.r.phase = .sample ∧ (interlude s).p.btn = false) ∧
    (∃ s : State, s.cfg.wellFormed = true ∧ s.r.booted = true ∧ s.cfg.mode = .poll ∧
      s.r.phase = .sample ∧ (interlude s).p.btn = true) ∧
    (∃ s : State, s.cfg.wellFormed = true ∧ s.r.booted = true ∧ s.cfg.mode = .poll ∧
      s.r.phase = .waitRelease ∧ (interlude s).p.btn = true) ∧
    (∃ s : State, s.cfg.wellFormed = true ∧ s.r.booted = true ∧ s.cfg.mode = .poll ∧
      s.r.phase = .waitRelease ∧ (interlude s).p.btn = false) :=
  ⟨⟨s4, by decide⟩, ⟨s4.withInputs true 0x33F#12, by decide⟩,
    ⟨(s4.withInputs true 0x33F#12).setPhase .waitRelease, by decide⟩, s4.setPhase .waitRelease,
    by decide⟩
theorem witness_SpinWithoutReleaseServicesNothing : ∃ s : State,
    s.cfg.wellFormed = true ∧ s.r.booted = true ∧ s.cfg.mode = .poll ∧ s.r.phase = .waitRelease ∧
      s.p.btn = true ∧ (∀ es ∈ s.env, EnvEvent.btn false ∉ es) ∧ s.p.timeout = true ∧ s.env ≠ [] :=
  ⟨(((s2.withInputs true 0#12).setPhase .waitRelease).withTimeout).withEvents
    [[.timeout], [.btn true]], by decide⟩
theorem witness_TimerServiceIrqPaths :
    (s1.cfg.wellFormed = true ∧ s1.r.booted = true ∧ s1.cfg.mode = .irq ∧
      s1.r.tick.toNat + 1 ≠ s1.cfg.divisor) ∧
    (∃ s : State, s.cfg.wellFormed = true ∧ s.r.booted = true ∧ s.cfg.mode = .irq ∧
      s.r.tick.toNat + 1 = s.cfg.divisor) := ⟨by decide, s1.withTick 9, by decide⟩
theorem witness_TimerServicePollPaths :
    (s2.cfg.wellFormed = true ∧ s2.r.booted = true ∧ s2.cfg.mode = .poll ∧
      (interlude s2).p.timeout = false) ∧
    (∃ s : State, s.cfg.wellFormed = true ∧ s.r.booted = true ∧ s.cfg.mode = .poll ∧
      (interlude s).p.timeout = true ∧ s.r.tick.toNat + 1 ≠ s.cfg.divisor) ∧
    (∃ s : State, s.cfg.wellFormed = true ∧ s.r.booted = true ∧ s.cfg.mode = .poll ∧
      (interlude s).p.timeout = true ∧ s.r.tick.toNat + 1 = s.cfg.divisor) :=
  ⟨by decide, ⟨s2.withTimeout, by decide⟩, s2.withTimeout.withTick 9, by decide⟩

/-- The timer's cause in both layouts, the edge's cause, and an unrecognised cause in both layouts. -/
theorem witness_IrqDispatchesCause :
    (∃ s : State, s.cfg.wellFormed = true ∧ s.r.booted = true ∧ s.cfg.mode = .irq ∧ s.p.ie = true ∧
      16#12 = s.cfg.causeTimer ∧ s.p.timeout = true ∧ s.p.timIto = true ∧
      s.cfg.edgeLayout = .distinct) ∧
    (∃ s : State, s.cfg.wellFormed = true ∧ s.r.booted = true ∧ s.cfg.mode = .irq ∧ s.p.ie = true ∧
      16#12 = s.cfg.causeTimer ∧ s.p.timeout = true ∧ s.p.timIto = true ∧
      s.cfg.edgeLayout = .shared) ∧
    (∃ s : State, s.cfg.wellFormed = true ∧ s.r.booted = true ∧ s.cfg.mode = .irq ∧ s.p.ie = true ∧
      17#12 ≠ s.cfg.causeTimer ∧ s.cfg.edgeLayout = .distinct ∧ 17#12 = s.cfg.causeEdge ∧
      s.p.cap = true ∧ s.p.capIe = true) ∧
    (s1.cfg.wellFormed = true ∧ s1.r.booted = true ∧ s1.cfg.mode = .irq ∧ s1.p.ie = true ∧
      18#12 ≠ s1.cfg.causeTimer ∧ 18#12 ≠ s1.cfg.causeEdge) ∧
    (s3.cfg.wellFormed = true ∧ s3.r.booted = true ∧ s3.cfg.mode = .irq ∧ s3.p.ie = true ∧
      17#12 ≠ s3.cfg.causeTimer ∧ s3.cfg.edgeLayout ≠ .distinct) :=
  ⟨⟨s1.withTimeout, by decide⟩, ⟨s3.withTimeout, by decide⟩, ⟨s1.withCapture true, by decide⟩,
    by decide, by decide⟩
/-- An admitted and a refused IRQ of each recognised cause. -/
theorem witness_IrqAdmission : s1.cfg.wellFormed = true ∧
    refusalReason (.irq 16#12) s1.withTimeout = none ∧ refusalReason (.irq 16#12) s1 ≠ none ∧
    refusalReason (.irq 17#12) (s1.withCapture false) = none ∧
    refusalReason (.irq 17#12) s1 ≠ none := by decide
theorem witness_PollSamplesButtonFirst :
    (∃ s : State, s.cfg.wellFormed = true ∧ s.r.booted = true ∧ s.cfg.mode = .poll ∧
      (interlude s).p.btn = true) ∧
    (s2.cfg.wellFormed = true ∧ s2.r.booted = true ∧ s2.cfg.mode = .poll ∧
      (interlude s2).p.btn = false) := ⟨⟨s2.withInputs true 0#12, by decide⟩, by decide⟩
theorem witness_NopDoesNothing : (s1.cfg.wellFormed = true ∧ s1.r.booted = true) ∧
    ∃ s : State, s.cfg.wellFormed = true ∧ s.r.booted = false :=
  ⟨by decide, State.powerOn tp1Zero false false 0#12, by decide⟩

/-- Without a wrap, and with one. -/
theorem witness_ButtonEffectsFirst : ∀ n ∈ [0, 9], ∃ s : State,
    s.cfg.wellFormed = true ∧ s.r.booted = true ∧ s.cfg.mode = .poll ∧ s.r.slots.length = s.cfg.nslots ∧
      s.env = [] ∧ s.r.phase = .sample ∧ s.p.btn = true ∧ s.p.timeout = true ∧ s.r.tick.toNat = n ∧
      s.cfg.divisor = 10 := by
  intro n h
  refine ⟨((s2.withInputs true 0x22A#12).withTimeout).withTick n, ?_⟩
  revert n
  decide
theorem witness_ResetLeaves : s4.cfg.wellFormed = true := by decide
theorem witness_ResetFromPowerOn : (Config.tp2 { hr := 0, min := 59, sec := 57 }).wellFormed = true := by
  decide
theorem witness_TimeoutSetsFlag : s2.cfg.wellFormed = true ∧ s2.r.booted = true := by decide
theorem witness_TimeoutsCoalesce : s1.cfg.wellFormed = true ∧ s1.r.booted = true := by decide
theorem witness_LineSetsLevelAndCaptures : s3.cfg.wellFormed = true := by decide
theorem witness_BtnSetsButton : (State.powerOn tp1Zero false false 0#12).cfg.wellFormed = true := by decide
theorem witness_SwSetsSwitches : s1.cfg.wellFormed = true ∧ (1023#12).toNat < 2 ^ s1.cfg.swW := by decide

/-- The three races. -/
theorem witness_ReadThenAcknowledgeRaces :
    (∃ s : State, s.cfg.wellFormed = true ∧ s.r.booted = true ∧ s.cfg.mode = .poll ∧
      s.p.timeout = true ∧ s.env = [[], [.timeout]]) ∧
    (∃ s : State, s.cfg.wellFormed = true ∧ s.r.booted = true ∧ s.cfg.mode = .irq ∧
      s.p.cap = true ∧ s.p.line = !true ∧ s.env = [[], [.line true]]) ∧
    (∃ s : State, s.cfg.wellFormed = true ∧ s.r.booted = true ∧ s.cfg.mode = .irq ∧
      s.cfg.edgePolarity ≠ .fall ∧ s.p.cap = true ∧ s.p.line = false ∧
      s.env = [[], [], [.line true]]) :=
  ⟨⟨s2.withTimeout.withEvents [[], [.timeout]], by decide⟩,
    ⟨(s1.withCapture false).withEvents [[], [.line true]], by decide⟩,
    (s1.withCapture false).withEvents [[], [], [.line true]], by decide⟩
theorem witness_IrqAccessBound : ∃ t, exec (.irq 16#12) s1.withTimeout = .next t := ⟨_, rfl⟩
theorem witness_EitherInterruptFirst : ∃ s : State,
    s.cfg.wellFormed = true ∧ s.r.booted = true ∧ s.cfg.mode = .irq ∧ s.cfg.edgeLayout = .distinct ∧
      s.p.ie = true ∧ irqTimer s = true ∧ irqEdge s = true ∧ s.env = [] :=
  ⟨(s1.withCapture true).withTimeout, by decide⟩
theorem witness_ButtonAndSwitchesInertInIrqMode :
    s1.cfg.mode = .irq ∧ (∃ t, exec .render s1 = .next t) ∧
      ∃ t, exec .render { s1 with p := { s1.p with btn := true, sw := 0x33F#12 } } = .next t :=
  ⟨by decide, ⟨_, rfl⟩, _, rfl⟩
theorem witness_HeartbeatIsCosmetic :
    (∃ t, exec .poll s2.withTimeout = .next t) ∧
      ∃ t, exec .poll { s2.withTimeout with r := { s2.withTimeout.r with hb := 1 } } = .next t :=
  ⟨⟨_, rfl⟩, _, rfl⟩
theorem witness_InterruptClockKeepsTime : ∃ s : State,
    s.cfg.wellFormed = true ∧ s.r.booted = true ∧ s.cfg.mode = .irq ∧ s.p.ie = true ∧
      s.p.timIto = true ∧ s.p.cap = false ∧ s.env = [] ∧ TimeInRange s ∧ SlotsSized s ∧
      s.r.tick.toNat < s.cfg.divisor ∧ s.cfg.divisor ≤ s.r.tick.toNat + 3 :=
  ⟨s1.withTick 7, by decide, by decide, by decide, by decide, by decide, by decide, rfl,
    ⟨by decide, by decide, fun _ => by decide, by decide⟩, rfl, by decide, by decide⟩
theorem witness_PollingClockKeepsTime : ∃ s : State,
    s.cfg.wellFormed = true ∧ s.r.booted = true ∧ s.cfg.mode = .poll ∧ s.r.phase = .sample ∧
      s.p.btn = false ∧ s.env = [] ∧ TimeInRange s ∧ SlotsSized s ∧ s.r.tick.toNat < s.cfg.divisor ∧
      s.r.hb < 2 ^ s.cfg.hbW ∧ s.cfg.divisor ≤ s.r.tick.toNat + 3 :=
  ⟨s2.withTick 7, by decide, by decide, by decide, by decide, by decide, rfl,
    ⟨by decide, by decide, by decide, fun _ => by decide⟩, rfl, by decide, by decide, by decide⟩

/-- The state a command leads to. -/
def ran (i : Instr) (s : State) : State :=
  match refusalReason i s with
  | none => effect i s
  | some why => s.refuse (encode i) why

theorem exec_ran (i : Instr) (s : State) : exec i s = .next (ran i s) := by
  unfold ran
  cases h : refusalReason i s with
  | none => exact exec_admitted h
  | some why => exact exec_refused h

/-- The state a command leads to when a schedule of events falls inside it. -/
def ranWith (i : Instr) (es : List (List EnvEvent)) (s : State) : State := ran i (s.withEvents es)

/-- The run on which the same command is offered at every position, each time with the same events inside. -/
def constantRun (i : Instr) (es : List (List EnvEvent)) (s : State) : Run where
  state n := (ranWith i es)^[n] s
  instr _ := i
  events _ := es
  next n := by rw [Function.iterate_succ_apply']; exact exec_ran i _

/-- What holds after the first command and is kept by the command holds at every later position. -/
theorem constantRun_keeps {i : Instr} {es : List (List EnvEvent)} {s : State} {P : State → Prop}
    (first : P (ranWith i es s)) (keeps : ∀ t, P t → P (ranWith i es t)) (n : Nat) :
    P ((constantRun i es s).state (n + 1)) := by
  induction n with
  | zero => exact first
  | succ n ih =>
    have e : (constantRun i es s).state (n + 1 + 1) =
        ranWith i es ((constantRun i es s).state (n + 1)) := Function.iterate_succ_apply' _ _ _
    exact e ▸ keeps _ ih

/-- A run whose second command finds its request no longer pending is weakly fair. -/
theorem constantRun_fair {c : Cause} {es : List (List EnvEvent)} {s : State}
    (first : refusalReason (.irq c) (ranWith (.irq c) es s) = some .irqNotPending ∧
      (ranWith (.irq c) es s).p.timeout = false ∧ (ranWith (.irq c) es s).p.cap = false) :
    (constantRun (.irq c) es s).WeaklyFair := by
  have later := constantRun_keeps (P := fun t => refusalReason (.irq c) t = some .irqNotPending ∧
    t.p.timeout = false ∧ t.p.cap = false) first fun t ht => by
      have hr : refusalReason (.irq c) (t.withEvents es) = some .irqNotPending := ht.1
      have e : ranWith (.irq c) es t = (t.withEvents es).refuse (encode (.irq c)) .irqNotPending := by
        simp [ranWith, ran, hr]
      rw [e]
      exact ht
  constructor <;> intro n up <;> have h := (up (n + 1) (by omega)).1 <;>
    simp [irqTimer, irqEdge, later n] at h

/-- IRQ 16 in SHARED with a timeout pending, and IRQ 17 in DISTINCT with an edge captured, each offered at
every position, with a switch event inside it: both runs are weakly fair, and the premises hold at
position 0. -/
theorem witness_FairRunTakesTimerRequest :
    (∃ ρ : Run, ρ.WeaklyFair ∧ (ρ.state 0).cfg.mode = .irq ∧
      (∀ m, 0 ≤ m → ρ.instr m ≠ .reset ∧ ρ.instr m ≠ .timersvcIrq) ∧ timerRequested (ρ.state 0)) ∧
    (∃ ρ : Run, ρ.WeaklyFair ∧ (ρ.state 0).cfg.mode = .irq ∧ (ρ.state 0).cfg.edgeLayout = .distinct ∧
      (∀ m, 0 ≤ m → ρ.instr m ≠ .reset ∧ ρ.instr m ≠ .edgesvc) ∧ edgeRequested (ρ.state 0)) :=
  ⟨⟨constantRun (.irq 16#12) [[.sw 1#12]] s3.withTimeout, constantRun_fair (by decide), rfl,
      fun _ _ => ⟨(nomatch ·), (nomatch ·)⟩, by decide, by decide⟩,
    constantRun (.irq 17#12) [[.sw 1#12]] (s1.withCapture true), constantRun_fair (by decide), rfl, rfl,
    fun _ _ => ⟨(nomatch ·), (nomatch ·)⟩, by decide, by decide⟩

/-- A press and its release before the first access of a command. -/
def bounce : List (List EnvEvent) := [[.btn true, .btn false]]

/-- Nothing to do for a poll in TP2: booted, the button released, no timeout. -/
def Idle (s : State) : Prop :=
  s.cfg = s2.cfg ∧ s.r.booted = true ∧ s.r.phase = .sample ∧ s.p.btn = false ∧ s.p.timeout = false

theorem idle_admits {s : State} (h : Idle s) : refusalReason .poll s = none := by
  have hc : s2.cfg.wellFormed = true ∧ s2.cfg.mode = .poll := by decide
  exact refusalReason_free (h.1 ▸ hc.1) rfl (.inl h.2.1) (.inr (by rw [h.1, hc.2]; rfl)) rfl

theorem idle_kept (s : State) (h : Idle s) : Idle (ranWith .poll bounce s) := by
  have hi : refusalReason .poll (s.withEvents bounce) = none := idle_admits h
  obtain ⟨hc, hb, hp, hbtn, ht⟩ := h
  have e : ranWith .poll bounce s = { s.withEvents [] with
      p := { s.p with btn := false }
      trace := s.trace ++ [.readBtn false] ++ [.readTimerStatus false] } := by
    rw [ranWith, ran, hi]
    simp [effect, pollIteration, levelService, onButton, timerServicePoll, readBtn, readTimerStatus,
      State.record, interlude, bounce, State.withEvents, applyEvents, applyEvent, hp, ht]
  rw [e]
  exact ⟨hc, hb, hp, rfl, ht⟩

/-- A run of POLLs with a press and its release inside each, for ever, and a timeout pending at
position 0. -/
theorem witness_ReleasedRunServesTimeout : ∃ ρ : Run, (ρ.state 0).cfg.mode = .poll ∧ ρ.Releases ∧
    (∀ m, 0 ≤ m → ρ.releasedAt m →
      ∃ k, m ≤ k ∧ ρ.takes .poll k ∧ (interlude (ρ.before k)).p.btn = false) ∧
    (∀ m, 0 ≤ m → ρ.instr m ≠ .reset) ∧ (ρ.state 0).p.timeout = true ∧
    ∀ m, EnvEvent.btn true ∈ (ρ.events m).flatten := by
  have idle := constantRun_keeps (i := .poll) (es := bounce) (s := s2.withTimeout) (P := Idle)
    (by unfold Idle; decide) idle_kept
  exact ⟨constantRun .poll bounce s2.withTimeout, rfl,
    fun n _ => ⟨n + 1, by omega, .inl (idle n).2.2.2.1⟩,
    fun m _ _ => ⟨m + 1, by omega, ⟨rfl, idle_admits (idle m)⟩, rfl⟩,
    fun _ _ => (nomatch ·), rfl, fun _ => by simp [constantRun, bounce]⟩

/-- TP2 spinning on a pressed button. -/
def spinning : State := (s2.withInputs true 0#12).setPhase .waitRelease

/-- A spin step makes one access, so a release in the first turn happens inside it and one in the second
turn does not. -/
theorem test_events_inside :
    (constantRun .poll [[], [.btn false]] spinning).inside 0 = [] ∧
      (constantRun .poll [[.timeout], [.btn false]] spinning).inside 0 = [.timeout] ∧
      (constantRun .nop [[.btn false]] spinning).inside 0 = [] := by decide

/-- The last accepted operands, the first refused ones, and a line in its forms. -/
theorem witness_AssemblerSyntaxTable :
    (Instr.sw 1023#12).wellFormed tp1Zero.swW = true ∧
      ["ENCODE 15", "SETF 3, 255", "WSLOT 15, 255", "IRQ 4095", "SW 1023", "LINE 1", "BTN 1"].map
          (assembleLine tp1Zero) =
        [.ok [.encode 15#4], .ok [.setf 3#2 255#8], .ok [.wslot 15#4 255#8], .ok [.irq 4095#12],
          .ok [.sw 1023#12], .ok [.line true], .ok [.btn true]] ∧
      ["ENCODE 16", "SETF 4, 0", "SETF 0, 256", "WSLOT 16, 0", "WSLOT 0, 256", "IRQ 4096", "SW 1024",
          "LINE 2", "BTN 2"].map (assembleLine tp1Zero) =
        List.replicate 9 (.error .outOfRange) ∧
      String.ofList (commandText decimal (.setf 1#2 75#8)) = "SETF 1, 75" ∧
      String.ofList (commandText hexadecimal (.irq 4095#12)) = "IRQ 0xfff" := by decide
theorem witness_PseudoInstructionsExpand :
    assembleAll tp1Zero [.line "TICK"] = .ok [.tick] ∧ tp1Zero.edgeLayout = .distinct ∧
      s3.cfg.edgeLayout = .shared ∧ (0x22A#12).toNat < 2 ^ tp1Zero.swW := by decide

end Sys2Proof.Machine
end

section
/-! PROOF. The statements on the scope: which configurations are well formed (O6), what happens under one
that is not (O7), what no step changes (O15), and what an observer of a slot may see (O31). -/

namespace Sys2Proof

/-! ### The checks of a configuration, one by one (00_scope.md R7 and R8) -/

/-- Two fields of positive width share no bit exactly when one ends before the other begins. -/
theorem disjoint_fields_iff {a b n m : Nat} (hn : 0 < n) (hm : 0 < m) :
    (∀ i j : Nat, i < n → j < m → a + i ≠ b + j) ↔ a + n ≤ b ∨ b + m ≤ a := by
  constructor
  · intro h
    rcases Nat.le_total a b with hab | hba
    · have hmeet := h (b - a) 0
      omega
    · have hmeet := h 0 (a - b)
      omega
  · omega

theorem Config.literalsOk_iff (c : Config) : c.literalsOk = true ↔
    c.smod = 60 ∧ c.mmod = 60 ∧ c.nslots = 6 ∧ c.slotW = 8 ∧ c.selW = 2 ∧ c.valW = 6 := by
  simp [Config.literalsOk, and_assoc]

theorem Config.domainsOk_iff (c : Config) : c.domainsOk = true ↔
    (1 ≤ c.divisor ∧ c.divisor ≤ 15) ∧
    (c.hmod = 24 ∨ c.hmod = 100) ∧ (c.edgeAdv = 1 ∨ c.edgeAdv = 2) ∧ (8 ≤ c.swW ∧ c.swW ≤ 12) ∧
      1 ≤ c.hbW := by
  simp only [Config.domainsOk, Bool.and_eq_true, Bool.or_eq_true, beq_iff_eq, decide_eq_true_eq]
  tauto

theorem Config.switchFieldsOk_iff {c : Config} (hs : c.selW = 2) (hv : c.valW = 6) :
    c.switchFieldsOk = true ↔
      (c.selLsb + 2 ≤ c.swW ∧ c.valLsb + 6 ≤ c.swW) ∧
      ∀ i j : Nat, i < 2 → j < 6 → c.selLsb + i ≠ c.valLsb + j := by
  rw [disjoint_fields_iff (by omega) (by omega)]
  simp [Config.switchFieldsOk, hs, hv]

theorem Config.causesOk_iff (c : Config) : c.causesOk = true ↔
    (c.edgeLayout = .distinct → c.causeEdge ≠ c.causeTimer) := by
  cases hl : c.edgeLayout <;> simp [Config.causesOk, hl]

theorem Config.initTimeOk_iff {c : Config} (hs : c.smod = 60) (hm : c.mmod = 60) :
    c.initTimeOk = true ↔
      c.initTime.sec < 60 ∧ c.initTime.min < 60 ∧
        (c.variant = .hms → c.initTime.hr < c.hmod) ∧ (c.variant = .ms → c.initTime.hr = 0) := by
  cases hv : c.variant <;> simp [Config.initTimeOk, hs, hm, hv, and_assoc]

/-- Bit 7 of a pattern as a bound on its value. -/
theorem getLsbD_seven_iff (b : Byte) : b.getLsbD 7 = true ↔ 128 ≤ b.toNat := by
  have hmsb : b.getLsbD 7 = b.msb := (BitVec.msb_eq_getLsbD_last b).symm
  rw [hmsb, BitVec.msb_eq_decide]
  simp

theorem Config.tableOk_iff (c : Config) : c.tableOk = true ↔
    ∀ i : Fin 10, 128 ≤ (c.encTable[i]).toNat := by
  simp only [Config.tableOk, List.all_eq_true, Vector.mem_toList_iff, Vector.mem_iff_getElem,
    getLsbD_seven_iff]
  constructor
  · exact fun h i => h _ ⟨i, i.isLt, rfl⟩
  · rintro h _ ⟨i, hi, rfl⟩
    exact h ⟨i, hi⟩

theorem Config.wellFormed_iff_checks (c : Config) : c.wellFormed = true ↔
    c.literalsOk = true ∧ c.domainsOk = true ∧ c.switchFieldsOk = true ∧ c.causesOk = true ∧
      c.initTimeOk = true ∧ c.tableOk = true := by
  simp only [Config.wellFormed, Bool.and_eq_true, and_assoc]

/-! ### A word that decodes is the word of its command (30_encoding.md R81, R84) -/

/-- A word is its class and its operand (R80). -/
theorem eq_of_class_operand {v w : Word}
    (h : v.toNat = (opClass w).toNat * 4096 + (operand w).toNat) : v = w := by
  rw [toNat_opClass, toNat_operand] at h
  exact BitVec.eq_of_toNat_eq (by omega)

/-- A reserved field is 0. -/
theorem extract_eq_zero_iff {n : Nat} (w : BitVec n) (s k : Nat) :
    w.extractLsb' s k = 0#k ↔ w.toNat / 2 ^ s % 2 ^ k = 0 := by
  rw [← BitVec.toNat_inj, toNat_extract, BitVec.toNat_ofNat, Nat.zero_mod]

/-- A one-bit operand as a number. -/
theorem toNat_ofBool_getLsbD_zero {n : Nat} (w : BitVec n) :
    (BitVec.ofBool (w.getLsbD 0)).toNat = w.toNat % 2 := by
  rw [BitVec.toNat_ofBool, BitVec.getLsbD, Nat.testBit_zero]
  rcases Nat.mod_two_eq_zero_or_one w.toNat with h | h <;> simp [h]

/-- A format with a reserved field decodes exactly where that field is clear. -/
theorem ite_ok_eq_ok_iff {p : Prop} [Decidable p] {i j : Instr} {e : DecodeReject} :
    (if p then Except.ok i else Except.error e) = .ok j ↔ p ∧ i = j := by
  split <;> simp [*]

theorem encode_of_decodeN {i j : Instr} {w : Word} (hd : decodeN i w = .ok j)
    (hc : (encode i).toNat = (opClass w).toNat * 4096) : encode j = w := by
  obtain ⟨hx, rfl⟩ := ite_ok_eq_ok_iff.1 hd
  exact eq_of_class_operand (by simp [hc, hx])

theorem encode_of_decodeD {j : Instr} {w : Word} (hd : decodeD w = .ok j)
    (hc : (opClass w).toNat = 1) : encode j = w := by
  obtain ⟨hx, rfl⟩ := ite_ok_eq_ok_iff.1 hd
  rw [extract_eq_zero_iff] at hx
  apply eq_of_class_operand
  simp only [encode, toNat_append_eq, toNat_extract, toNat_operand, hc, BitVec.toNat_ofNat]
  omega

theorem encode_of_decodeS {j : Instr} {w : Word} (hd : decodeS w = .ok j)
    (hc : (opClass w).toNat = 4) : encode j = w := by
  obtain ⟨hx, rfl⟩ := ite_ok_eq_ok_iff.1 hd
  rw [extract_eq_zero_iff] at hx
  apply eq_of_class_operand
  simp only [encode, toNat_append_eq, toNat_extract, toNat_operand, hc, BitVec.toNat_ofNat]
  omega

/-- Format W of WSLOT has no reserved bit. -/
theorem encode_wslot_fields {w : Word} (hc : (opClass w).toNat = 8) :
    encode (.wslot (w.extractLsb' 8 4) (w.extractLsb' 0 8)) = w := by
  apply eq_of_class_operand
  simp only [encode, toNat_append_eq, toNat_extract, toNat_operand, hc, BitVec.toNat_ofNat]
  omega

theorem encode_of_decodeT {j : Instr} {w : Word} (hd : decodeT w = .ok j)
    (hc : (opClass w).toNat = 11) : encode j = w := by
  obtain ⟨hx, rfl⟩ := ite_ok_eq_ok_iff.1 hd
  rw [extract_eq_zero_iff] at hx
  have hm := toNat_ofBool_getLsbD_zero w
  apply eq_of_class_operand
  cases hb : w.getLsbD 0 <;> rw [hb] at hm <;>
    simp [encode, toNat_operand, hc] at hm ⊢ <;> omega

/-- Format C of IRQ has no reserved bit. -/
theorem encode_irq_operand {w : Word} (hc : (opClass w).toNat = 12) :
    encode (.irq (operand w)) = w :=
  eq_of_class_operand (by rw [encode, toNat_append_eq, hc]; rfl)

theorem encode_of_decodeV {swW : Nat} {j : Instr} {w : Word} (hd : decodeV swW w = .ok j)
    (hc : (opClass w).toNat = 14) : encode j = w := by
  obtain ⟨-, rfl⟩ := ite_ok_eq_ok_iff.1 hd
  exact eq_of_class_operand (by rw [encode, toNat_append_eq, hc]; rfl)

theorem encode_of_decodeE {j : Instr} {w : Word} (hd : decodeE w = .ok j)
    (hc : (opClass w).toNat = 15) : encode j = w := by
  have hm := toNat_ofBool_getLsbD_zero w
  unfold decodeE at hd
  apply eq_of_class_operand
  rw [hc, toNat_operand]
  split at hd
  case h_5 => cases hd
  all_goals
    rename_i hsub
    obtain ⟨hx, rfl⟩ := ite_ok_eq_ok_iff.1 hd
    rw [extract_eq_zero_iff] at hx
    rw [toNat_extract] at hsub
    simp only [encode, toNat_append_eq, hm, BitVec.toNat_ofNat]
    omega

/-- The word of the command a word decodes to is that word. -/
theorem encode_of_decode {swW : Nat} {w : Word} {i : Instr} (hd : decode swW w = .ok i) :
    encode i = w := by
  unfold decode at hd
  split at hd
  case h_2 hc => exact encode_of_decodeD hd hc
  case h_5 hc => exact encode_of_decodeS hd hc
  case h_9 hc => cases hd; exact encode_wslot_fields hc
  case h_12 hc => exact encode_of_decodeT hd hc
  case h_13 hc => cases hd; exact encode_irq_operand hc
  case h_15 hc => exact encode_of_decodeV hd hc
  case h_16 =>
    have hc : (opClass w).toNat = 15 := by
      have hlt := (opClass w).isLt
      simp only [imp_false] at *
      omega
    exact encode_of_decodeE hd hc
  all_goals exact encode_of_decodeN hd (by simp [*, encode])

end Sys2Proof

namespace Sys2Proof.Machine

/-! ### A step, by what the queue offers (00_scope.md R15) -/

variable {s : State} {w : Word} {rest : List Word}

theorem step_of_no_command (hq : s.commands = []) : step s = .next s := by
  simp [step, fetch, hq, waits]

theorem step_of_decodes {i : Instr} (hq : s.commands = w :: rest)
    (hd : decode s.cfg.swW w = .ok i) : step s = exec i { s with commands := rest } := by
  simp [step, fetch, hq, hd]

theorem step_of_reserved {e : DecodeReject} (hq : s.commands = w :: rest)
    (hd : decode s.cfg.swW w = .error e) :
    step s = .next (refuseWord w { s with commands := rest }) := by
  simp [step, fetch, hq, hd]

/-! ### Configuration: the first row of the admission table, and what no command writes -/

/-- Under an ill-formed configuration no command is admitted (30_encoding.md R87, first row). -/
theorem refusalReason_of_ill_formed (i : Instr) (hc : s.cfg.wellFormed = false) :
    refusalReason i s = some .config := by
  simp [refusalReason, hc]

/-- A command writes neither the configuration nor the queue (20_memory.md R70). -/
theorem exec_keeps_cfg_commands {i : Instr} {t : State} (h : exec i s = .next t) :
    t.cfg = s.cfg ∧ t.commands = s.commands := by
  rcases exec_cases h with ⟨why, -, rfl⟩ | ⟨-, -, rfl⟩ | ⟨-, -, -, hshell⟩
  · exact ⟨rfl, rfl⟩
  · exact ⟨rfl, rfl⟩
  · exact ⟨hshell.cfg, hshell.commands⟩

/-- A step writes no configuration and takes the first word of the queue (00_scope.md R7). -/
theorem step_keeps_cfg_takes_command {t : State} (h : step s = .next t) :
    t.cfg = s.cfg ∧ t.commands = s.commands.tail := by
  match hq : s.commands with
  | [] =>
    rw [step_of_no_command hq] at h
    cases h
    exact ⟨rfl, hq⟩
  | w :: rest =>
    match hd : decode s.cfg.swW w with
    | .ok i =>
      rw [step_of_decodes hq hd] at h
      exact exec_keeps_cfg_commands h
    | .error e =>
      rw [step_of_reserved hq hd] at h
      cases h
      exact ⟨rfl, rfl⟩

/-! ### What an observer of a slot may see (00_scope.md R14) -/

/-- After RESET every slot is `UNSET` (46_event_dispatcher.md R220). -/
theorem slots_of_reset {t : State} (hc : s.cfg.wellFormed = true) (h : exec .reset s = .next t) :
    t.r.slots = List.replicate 6 none := by
  rw [exec_at_any_time hc rfl] at h
  cases h
  rw [← Config.nslots_eq hc]
  rfl

/-- An executed RESET leaves the block booted. -/
theorem booted_of_reset {t : State} (hc : s.cfg.wellFormed = true) (h : exec .reset s = .next t) :
    t.r.booted = true := by
  rw [exec_at_any_time hc rfl] at h
  cases h
  rfl

/-- RENDER leaves the patterns of the current time in the slots (44_display_renderer.md R160). -/
theorem slots_of_render {t : State} (hc : s.cfg.wellFormed = true) (hb : s.r.booted = true)
    (hs : SlotsSized s) (h : exec .render s = .next t) : t.r.slots = shownSlots s := by
  rw [exec_of_booted hc hb] at h
  cases h
  rw [effect, render_eq (Config.nslots_eq hc) hs]

/-- An observer of an `UNSET` slot may see any byte. -/
theorem mayObserve_of_unset {i : Nat} (h : s.r.slots[i]? = some none) (b : Byte) :
    mayObserve s i b := .inr h

/-- An observer of a slot that holds a byte may see that byte only. -/
theorem mayObserve_iff_of_set {i : Nat} {v : Byte} (h : s.r.slots[i]? = some (some v)) (b : Byte) :
    mayObserve s i b ↔ b = v := by
  simp [mayObserve, h, eq_comm]

end Sys2Proof.Machine

open Sys2Proof Sys2Proof.Machine

/-- Settles O6, check by check. -/
theorem wellFormedConfigurations : Obligations.WellFormedConfigurations := by
  intro c
  rw [Config.wellFormed_iff_checks, Config.literalsOk_iff, Config.domainsOk_iff, Config.causesOk_iff,
    Config.tableOk_iff]
  constructor
  · rintro ⟨hlit, ⟨hdiv, hdom⟩, hsw, hcauses, htime, htable⟩
    have ⟨hs, hm, _, _, hsel, hval⟩ := hlit
    obtain ⟨hin, hdisj⟩ := (Config.switchFieldsOk_iff hsel hval).1 hsw
    exact ⟨hin, hdisj, hcauses, (Config.initTimeOk_iff hs hm).1 htime, htable, hdiv, hdom, hlit⟩
  · rintro ⟨hin, hdisj, hcauses, htime, htable, hdiv, hdom, hlit⟩
    have ⟨hs, hm, _, _, hsel, hval⟩ := hlit
    exact ⟨hlit, ⟨hdiv, hdom⟩, (Config.switchFieldsOk_iff hsel hval).2 ⟨hin, hdisj⟩, hcauses,
      (Config.initTimeOk_iff hs hm).2 htime, htable⟩

/-- Settles O7: the word recorded for a refused command is the word taken, because a word that decodes is
the word of its command. -/
theorem illFormedConfigurationRefuses : Obligations.IllFormedConfigurationRefuses := by
  intro s w rest hc hq
  match hd : decode s.cfg.swW w with
  | .ok i =>
    have hrefused : refusalReason i { s with commands := rest } = some .config :=
      refusalReason_of_ill_formed i hc
    rw [step_of_decodes hq hd, exec_refused hrefused, encode_of_decode hd, State.refuse]
  | .error e =>
    rw [step_of_reserved hq hd]
    simp [refuseWord, State.refuse, hc]

/-- Settles O15, from what a command can do seen from outside. -/
theorem configurationIsFixed : Obligations.ConfigurationIsFixed :=
  ⟨fun _ _ => step_keeps_cfg_takes_command, fun _ _ _ => exec_keeps_cfg_commands⟩

/-- Settles O31: RESET leaves every slot `UNSET`, RENDER leaves the shown patterns. -/
theorem observedSlots : Obligations.ObservedSlots := by
  intro s t u hc hreset hrender i b
  obtain ⟨hcfg, -⟩ := exec_keeps_cfg_commands hreset
  have hct : t.cfg.wellFormed = true := by rw [hcfg]; exact hc
  have hslots := slots_of_reset hc hreset
  have hsized : SlotsSized t := by simp [SlotsSized, hslots, Config.nslots_eq hct]
  have hshown := slots_of_render hct (booted_of_reset hc hreset) hsized hrender
  constructor
  · exact mayObserve_of_unset (by rw [hslots, List.getElem?_replicate_of_lt i.isLt]) b
  · exact mayObserve_iff_of_set (by simp [hshown, shownSlots]) b

end

section
/-! PROOF. The statements on the state: the invariant (O13, O14), who writes the control fields and
`booted` (O16, O17), the packed view of the time (O24), the timeout flag (O46) and the heartbeat (O54). -/

namespace Sys2Proof.Machine

variable {s t : State}

/-! ### Inversion of a step and of admission -/

/-- What a step can do: wait, run the command of the word it takes, or record that word (00_scope.md R15). -/
theorem step_cases (h : step s = .next t) :
    (s.commands = [] ∧ t = s) ∨
    (∃ i rest, s.commands = encode i :: rest ∧ exec i { s with commands := rest } = .next t) ∨
    (∃ w rest, s.commands = w :: rest ∧ t = refuseWord w { s with commands := rest }) := by
  match hq : s.commands with
  | [] =>
    rw [step_of_no_command hq] at h
    cases h
    exact .inl ⟨rfl, rfl⟩
  | w :: rest =>
    match hd : decode s.cfg.swW w with
    | .ok i =>
      rw [step_of_decodes hq hd] at h
      exact .inr (.inl ⟨i, rest, by rw [encode_of_decode hd], h⟩)
    | .error e =>
      rw [step_of_reserved hq hd] at h
      cases h
      exact .inr (.inr ⟨w, rest, rfl, rfl⟩)

/-- An admitted command matches none of the first four rows of 30_encoding.md R87. -/
theorem admitted_rows {i : Instr} (h : refusalReason i s = none) :
    s.cfg.wellFormed = true ∧ i.wellFormed s.cfg.swW = true ∧
      (s.r.booted = true ∨ worksBeforeReset i = true) ∧ wrongMode i s.cfg.mode = false := by
  unfold refusalReason at h
  split_ifs at h with hc hi hb hm
  refine ⟨by simpa using hc, by simpa using hi, ?_, by simpa using hm⟩
  cases hboot : s.r.booted
  · exact .inr (by simpa [hboot] using hb)
  · exact .inl rfl

/-- An admitted command of one mode runs in that mode (60_exceptions.md R252). -/
theorem mode_of_admitted {i : Instr} {m : Mode} (h : refusalReason i s = none)
    (hm : needsMode i = some m) : s.cfg.mode = m := by
  obtain ⟨-, -, -, hmode⟩ := admitted_rows h
  simp only [wrongMode, hm, bne_eq_false_iff_eq] at hmode
  exact hmode.symm

/-! ### The part of the invariant that block operations write -/

/-- The ranges speak of the configuration and the registers only. -/
theorem RegistersInRange.congr (h : RegistersInRange s) (hcfg : t.cfg = s.cfg) (hr : t.r = s.r) :
    RegistersInRange t := by
  cases s; cases t; cases hcfg; cases hr
  exact { h with time := { h.time with } }

/-- All of Inv but the control fields, which no block operation writes: every sub-step keeps it. -/
structure Sound (s : State) : Prop where
  cfg      : s.cfg.wellFormed = true
  slots    : SlotsSized s
  sw       : fitsSwitches s.cfg.swW s.p.sw = true
  schedule : ∀ es ∈ s.env, ∀ e ∈ es, e.wellFormed s.cfg.swW = true
  regs     : s.r.booted = true → RegistersInRange s

/-- Only the three-unit variant has hours to select (30_encoding.md R91). -/
theorem hms_of_selectedUnit_hr {v : Variant} {sel : Nat} (h : selectedUnit v sel = some .hr) :
    v = .hms := by
  unfold selectedUnit at h
  cases v with
  | hms => rfl
  | ms => split at h <;> cases h

namespace Sound

/-- What is sound stays so where only the logs, the command queue and other platform fields differ. -/
theorem congr (h : Sound s) (hcfg : t.cfg = s.cfg) (hr : t.r = s.r) (hsw : t.p.sw = s.p.sw)
    (henv : t.env = s.env) : Sound t where
  cfg := by rw [hcfg]; exact h.cfg
  slots := by rw [SlotsSized, hcfg, hr]; exact h.slots
  sw := by rw [hcfg, hsw]; exact h.sw
  schedule := by rw [hcfg, henv]; exact h.schedule
  regs hb := (h.regs (by rw [← hr]; exact hb)).congr hcfg hr

/-! The register writes: a value in its range keeps the state sound. -/

theorem setSec (h : Sound s) {n : Nat} (hn : n < 60) : Sound (s.setSec n) :=
  { h with
    regs := fun hb => { h.regs hb with
      time := { (h.regs hb).time with sec := by rw [State.setSec_r, BitVec.toNat_ofNat]; omega } } }

theorem setMin (h : Sound s) {n : Nat} (hn : n < 60) : Sound (s.setMin n) :=
  { h with
    regs := fun hb => { h.regs hb with
      time := { (h.regs hb).time with min := by rw [State.setMin_r, BitVec.toNat_ofNat]; omega } } }

/-- Hours are written in the three-unit variant only. -/
theorem setHr (h : Sound s) (hv : s.cfg.variant = .hms) {n : Nat} (hn : n < s.cfg.hmod) :
    Sound (s.setHr n) :=
  { h with
    regs := fun hb => { h.regs hb with
      time := { (h.regs hb).time with
        hms := fun _ => by
          have hmod := Config.hmod_cases h.cfg
          rw [State.setHr_r, BitVec.toNat_ofNat, State.setHr_cfg]
          omega
        ms := fun hms => by rw [State.setHr_cfg, hv] at hms; cases hms } } }

theorem setTick (h : Sound s) {n : Nat} (hn : s.r.tick.toNat < s.cfg.divisor → n < s.cfg.divisor) :
    Sound (s.setTick n) :=
  { h with
    regs := fun hb => { h.regs hb with
      time := { (h.regs hb).time with }
      tick := by
        have hrange := Config.divisor_range h.cfg
        have hlt := hn (h.regs hb).tick
        rw [State.setTick_r, BitVec.toNat_ofNat, State.setTick_cfg]
        omega } }

theorem setHb (h : Sound s) {n : Nat} (hn : n < 2 ^ s.cfg.hbW) : Sound (s.setHb n) :=
  { h with
    regs := fun hb => { h.regs hb with
      time := { (h.regs hb).time with }
      hb := hn } }

/-- `SAMPLE` is the one phase of `MODE = IRQ`. -/
theorem setPhase (h : Sound s) {f : Phase} (hf : s.cfg.mode = .irq → f = .sample) :
    Sound (s.setPhase f) :=
  { h with
    regs := fun hb => { h.regs hb with
      time := { (h.regs hb).time with }
      phase := hf } }

theorem setLatch (h : Sound s) (v : Bool) : Sound (s.setLatch v) :=
  { h with regs := fun hb => { h.regs hb with time := { (h.regs hb).time with } } }

theorem setRes (h : Sound s) (v : BitVec 32) : Sound (s.setRes v) :=
  { h with regs := fun hb => { h.regs hb with time := { (h.regs hb).time with } } }

theorem setSlots (h : Sound s) {v : List (Option Byte)} (hv : v.length = s.r.slots.length) :
    Sound (s.setSlots v) :=
  { h with
    slots := hv.trans h.slots
    regs := fun hb => { h.regs hb with time := { (h.regs hb).time with } } }

/-! Events and port accesses. -/

theorem setP (h : Sound s) {q : Platform} (hq : fitsSwitches s.cfg.swW q.sw = true) :
    Sound (s.setP q) :=
  { h with
    sw := hq
    regs := fun hb => (h.regs hb).congr rfl rfl }

theorem applyEvent (h : Sound s) {e : EnvEvent} (he : e.wellFormed s.cfg.swW = true) :
    Sound (s.setP (applyEvent s.cfg s.p e)) :=
  h.setP (applyEvents_sw s.cfg s.cfg.swW [e] (by simpa using he) s.p h.sw)

theorem interlude (h : Sound s) : Sound (interlude s) where
  cfg := h.cfg
  slots := h.slots
  sw := by
    refine applyEvents_sw _ _ _ ?_ _ h.sw
    cases henv : s.env with
    | nil => simp
    | cons es rest => exact h.schedule es (by simp [henv])
  schedule es hes := h.schedule es (List.mem_of_mem_tail hes)
  regs hb := (h.regs hb).congr rfl rfl

theorem record (h : Sound s) (a : Access) : Sound (s.record a) := h.congr rfl rfl rfl rfl

theorem readTimerStatus (h : Sound s) : Sound (readTimerStatus s).2 := h.interlude.record _

theorem readCap (h : Sound s) : Sound (readCap s).2 := h.interlude.record _

theorem readLine (h : Sound s) : Sound (readLine s).2 := h.interlude.record _

theorem readBtn (h : Sound s) : Sound (readBtn s).2 := h.interlude.record _

theorem readSwitches (h : Sound s) : Sound (readSwitches s).2 := h.interlude.record _

theorem ackTimer (h : Sound s) : Sound (ackTimer s) := h.interlude.congr rfl rfl rfl rfl

theorem ackCap (h : Sound s) (v : Bool) : Sound (ackCap v s) :=
  h.interlude.congr rfl rfl rfl rfl

theorem slotWrite (h : Sound s) (i : BitVec 4) (v : Byte) : Sound (slotWrite i v s) :=
  (h.interlude.setSlots (length_writeSlot _ _ i v)).record _

/-! The sub-steps of the commands. -/

theorem carryIntoHours (h : Sound s) : Sound (carryIntoHours s) := by
  unfold Machine.carryIntoHours
  cases hv : s.cfg.variant with
  | hms => exact h.setHr hv (Nat.mod_lt _ (by have := Config.hmod_cases h.cfg; omega))
  | ms => exact h

theorem carryIntoMinutes (h : Sound s) : Sound (carryIntoMinutes s) := by
  have hmmod := Config.mmod_eq h.cfg
  unfold Machine.carryIntoMinutes
  split
  · exact h.setMin (by omega)
  · exact (h.setMin (by omega)).carryIntoHours

theorem advance (h : Sound s) : Sound (advance s) := by
  have hsmod := Config.smod_eq h.cfg
  unfold Machine.advance
  split
  · exact h.setSec (by omega)
  · exact (h.setSec (by omega)).carryIntoMinutes

theorem advanceTimes (n : Nat) : ∀ {s : State}, Sound s → Sound (advanceTimes n s) := by
  induction n with
  | zero => exact id
  | succ n ih => exact fun h => ih h.advance

theorem setField (h : Sound s) (sel raw : Nat) : Sound (setField sel raw s) := by
  unfold Machine.setField
  match hu : selectedUnit s.cfg.variant sel with
  | some .sec => exact h.setSec (by rw [Config.smod_eq h.cfg]; omega)
  | some .min => exact h.setMin (by rw [Config.mmod_eq h.cfg]; omega)
  | some .hr =>
    exact h.setHr (hms_of_selectedUnit_hr hu) (Nat.mod_lt _ (by have := Config.hmod_cases h.cfg; omega))
  | none => exact h

theorem tick (h : Sound s) : Sound (tick s).2 := by
  have hrange := Config.divisor_range h.cfg
  rw [tick_snd]
  refine h.setTick fun hlt => ?_
  split <;> omega

theorem renderSlots (digits : List (BitVec 4)) (l : List Nat) :
    ∀ {s : State}, Sound s → Sound (renderSlots digits l s) := by
  induction l with
  | nil => exact id
  | cons i l ih => exact fun h => ih (h.slotWrite _ _)

theorem render (h : Sound s) : Sound (render s) := Sound.renderSlots _ _ h

theorem latchAndAdvance (h : Sound s) (lvl : Bool) : Sound (latchAndAdvance lvl s) := by
  cases lvl with
  | false => exact h.setLatch false
  | true => exact (Sound.advanceTimes _ (h.setLatch true)).render

theorem serviceEdge (h : Sound s) : Sound (serviceEdge s) :=
  (h.ackCap true).readLine.latchAndAdvance _

theorem edgeService (h : Sound s) : Sound (edgeService s) := by
  unfold Machine.edgeService
  split
  · exact h.readCap.serviceEdge
  · exact h.readCap

theorem divideAndShow (h : Sound s) : Sound (divideAndShow s) := by
  unfold Machine.divideAndShow
  split
  · exact h.tick.advance.render
  · exact h.tick

theorem timerServiceIrq (h : Sound s) : Sound (timerServiceIrq s) := h.ackTimer.divideAndShow

theorem beat (h : Sound s) : Sound (beat s) := h.setHb (Nat.mod_lt _ (Nat.two_pow_pos _))

theorem timerServicePoll (h : Sound s) : Sound (timerServicePoll s) := by
  unfold Machine.timerServicePoll
  split
  · exact h.readTimerStatus.ackTimer.beat.divideAndShow
  · exact h.readTimerStatus

theorem dispatchCause (h : Sound s) (c : Cause) : Sound (dispatchCause c s) := by
  unfold Machine.dispatchCause
  cases classifyCause s.cfg c with
  | timer =>
    cases s.cfg.edgeLayout with
    | shared => exact h.timerServiceIrq.edgeService
    | distinct => exact h.timerServiceIrq
  | edge => exact h.edgeService
  | unrecognised => exact h

/-- Waiting for the release belongs to `MODE = POLL`. -/
theorem pressStep (h : Sound s) (hm : s.cfg.mode = .poll) : Sound (pressStep s) := by
  refine ((h.readSwitches.setField _ _).render).setPhase fun hirq => ?_
  rw [((setField_shell _ _ _).trans (render_shell _)).cfg, (readSwitches_shell s).cfg, hm] at hirq
  cases hirq

theorem onButton (h : Sound s) (hm : s.cfg.mode = .poll) (b : Bool) : Sound (onButton b s).2 := by
  unfold Machine.onButton
  cases s.r.phase <;> cases b
  · exact h
  · exact h.pressStep hm
  · exact h.setPhase fun _ => rfl
  · exact h

theorem levelService (h : Sound s) (hm : s.cfg.mode = .poll) : Sound (levelService s).2 :=
  h.readBtn.onButton ((congrArg Config.mode (readBtn_shell s).cfg).trans hm) _

theorem pollIteration (h : Sound s) (hm : s.cfg.mode = .poll) : Sound (pollIteration s) := by
  unfold Machine.pollIteration
  split
  · exact (h.levelService hm).timerServicePoll
  · exact h.levelService hm

/-- Every admitted command but RESET keeps a state sound. -/
theorem effect {i : Instr} (h : Sound s) (hne : i ≠ .reset) (hi : refusalReason i s = none) :
    Sound (effect i s) := by
  obtain ⟨-, hwf, -, -⟩ := admitted_rows hi
  cases i with
  | reset => exact absurd rfl hne
  | nop => exact h
  | encode d => exact h.setRes _
  | blank => exact h.setRes _
  | advance => exact h.advance
  | setf sel raw => exact h.setField sel.toNat raw.toNat
  | decomp => exact h.setRes _
  | tick => exact h.tick.setRes _
  | render => exact h.render
  | wslot idx pat => exact h.slotWrite idx pat
  | edgesvc => exact h.edgeService
  | levelsvc => exact h.levelService (mode_of_admitted hi rfl)
  | timersvcIrq => exact h.timerServiceIrq
  | timersvcPoll => exact h.timerServicePoll
  | irq c => exact h.dispatchCause c
  | poll => exact h.pollIteration (mode_of_admitted hi rfl)
  | sw x => exact h.applyEvent (e := .sw x) hwf
  | timeout => exact h.applyEvent (e := .timeout) rfl
  | line v => exact h.applyEvent (e := .line v) rfl
  | btn v => exact h.applyEvent (e := .btn v) rfl

end Sound

/-! ### The whole invariant -/

/-- The invariant speaks of the configuration, the registers, the platform and the schedule only. -/
theorem Inv.congr (h : Inv s) (hcfg : t.cfg = s.cfg) (hr : t.r = s.r) (hp : t.p = s.p)
    (henv : t.env = s.env) : Inv t := by
  cases s; cases t; cases hcfg; cases hr; cases hp; cases henv
  exact { h with
    before := fun hb => { h.before hb with }
    after := fun hb => ⟨(h.after hb).1.congr rfl rfl, { (h.after hb).2 with }⟩ }

theorem Inv.sound (h : Inv s) : Sound s := { h with regs := fun hb => (h.after hb).1 }

/-- The control fields are part of what SameShell keeps, so soundness is all that is left to show. -/
theorem Inv.of_sameShell (h : Inv s) (hk : SameShell s t) (ht : Sound t) : Inv t where
  cfg := ht.cfg
  slots := ht.slots
  sw := ht.sw
  schedule := ht.schedule
  before hb := by
    obtain ⟨hrun, hcont, hito, hcap, hie⟩ := h.before (hk.booted.symm.trans hb)
    exact ⟨hk.timRun.trans hrun, hk.timCont.trans hcont, hk.timIto.trans hito, hk.capIe.trans hcap,
      hk.ie.trans hie⟩
  after hb := by
    obtain ⟨hrun, hcont, hito, hcap, hie⟩ := (h.after (hk.booted.symm.trans hb)).2
    refine ⟨ht.regs hb, hk.timRun.trans hrun, hk.timCont.trans hcont, ?_, ?_, ?_⟩
    · rw [hk.timIto, hk.cfg, hito]
    · rw [hk.capIe, hk.cfg, hcap]
    · rw [hk.ie, hk.cfg, hie]

/-- The registers RESET writes are in range under a well-formed configuration (10_state.md R31). -/
theorem registersInRange_afterReset (hc : s.cfg.wellFormed = true)
    (hr : s.r = Block.afterReset s.cfg) : RegistersInRange s := by
  have hsec := Config.initTime_sec hc
  have hmin := Config.initTime_min hc
  have hmod := Config.hmod_cases hc
  have hdiv := Config.divisor_range hc
  refine ⟨⟨?_, ?_, fun hv => ?_, fun hv => ?_⟩, ?_, fun _ => ?_, ?_⟩ <;> rw [hr]
  · simp only [Block.afterReset, BitVec.toNat_ofNat]; omega
  · simp only [Block.afterReset, BitVec.toNat_ofNat]; omega
  · have hhr := Config.initTime_hms hc hv
    simp only [Block.afterReset, BitVec.toNat_ofNat]; omega
  · simp only [Block.afterReset, Config.initTime_ms hc hv]
  · simp only [Block.afterReset, BitVec.toNat_ofNat]; omega
  · rfl
  · exact Nat.two_pow_pos _

/-- The invariant holds wherever RESET has just written the registers and the control fields. -/
theorem Inv.of_afterReset {line btn : Bool} {x : Switches} (hc : s.cfg.wellFormed = true)
    (hr : s.r = Block.afterReset s.cfg)
    (hp : s.p = Platform.afterReset s.cfg line btn x) (hx : fitsSwitches s.cfg.swW x = true)
    (henv : ∀ es ∈ s.env, ∀ e ∈ es, e.wellFormed s.cfg.swW = true) : Inv s where
  cfg := hc
  slots := by rw [SlotsSized, hr]; exact List.length_replicate
  sw := by rw [hp]; exact hx
  schedule := henv
  before hb := by rw [hr] at hb; cases hb
  after _ := ⟨registersInRange_afterReset hc hr, by constructor <;> rw [hp] <;> rfl⟩

/-- RESET leaves the registers and the control fields as BOOT leaves them, and the inputs as they were. -/
theorem Inv.reset (h : Inv s) : Inv (markBooted (boot (clearForReset s))) :=
  Inv.of_afterReset (line := s.p.line) (btn := s.p.btn) h.cfg rfl rfl h.sw h.schedule

theorem Inv.exec {i : Instr} (h : Inv s) (he : exec i s = .next t) : Inv t := by
  rcases exec_cases he with ⟨why, -, rfl⟩ | ⟨-, -, rfl⟩ | ⟨hi, hne, rfl, hshell⟩
  · exact h.congr rfl rfl rfl rfl
  · exact h.reset
  · exact h.of_sameShell hshell (h.sound.effect hne hi)

theorem Inv.step (h : Inv s) (hs : step s = .next t) : Inv t := by
  rcases step_cases hs with ⟨-, rfl⟩ | ⟨i, rest, -, he⟩ | ⟨w, rest, -, rfl⟩
  · exact h
  · exact Inv.exec (s := { s with commands := rest }) (h.congr rfl rfl rfl rfl) he
  · exact h.congr rfl rfl rfl rfl

theorem Inv.powerOn {c : Config} {x : Switches} (line btn : Bool) (hc : c.wellFormed = true)
    (hx : fitsSwitches c.swW x = true) : Inv (State.powerOn c line btn x) where
  cfg := hc
  slots := List.length_replicate
  sw := hx
  schedule := by simp [State.powerOn]
  before _ := ⟨rfl, rfl, rfl, rfl, rfl⟩
  after hb := by cases hb

theorem Inv.resetWith {c : Config} {x : Switches} (line btn : Bool) (hc : c.wellFormed = true)
    (hx : fitsSwitches c.swW x = true) : Inv (State.resetWith c line btn x) :=
  Inv.of_afterReset hc rfl rfl hx (by simp [State.resetWith])

/-! ### Who writes `booted` -/

/-- A command leaves `booted` alone, or it is an executed RESET and sets it (10_state.md R28). -/
theorem booted_of_exec {i : Instr} (h : exec i s = .next t) :
    t.r.booted = s.r.booted ∨
      (i = .reset ∧ refusalReason i s = none ∧ t.r.booted = true) := by
  rcases exec_cases h with ⟨why, -, rfl⟩ | ⟨hi, hreset, rfl⟩ | ⟨-, -, -, hshell⟩
  · exact .inl rfl
  · exact .inr ⟨hreset, hi, rfl⟩
  · exact .inl hshell.booted

/-- The same of a step, with RESET's word at the head of the queue. -/
theorem booted_of_step (h : step s = .next t) :
    t.r.booted = s.r.booted ∨ ((∃ rest, s.commands = 0xF000#16 :: rest) ∧ t.r.booted = true) := by
  rcases step_cases h with ⟨-, rfl⟩ | ⟨i, rest, hq, he⟩ | ⟨w, rest, -, rfl⟩
  · exact .inl rfl
  · rcases booted_of_exec he with hkept | ⟨rfl, -, hset⟩
    · exact .inl hkept
    · exact .inr ⟨⟨rest, hq⟩, hset⟩
  · exact .inl rfl

/-! ### The packed view of the time -/

/-- The high digit fits its four bits, for every value a unit register of 7 bits can hold. -/
theorem toNat_tens {n : Nat} (h : n < 160) : (tens n).toNat = n / 10 := by
  rw [tens, BitVec.toNat_ofNat]; omega

theorem toNat_ones (n : Nat) : (ones n).toNat = n % 10 := by
  rw [ones, BitVec.toNat_ofNat]; omega

/-- The view in decimal nibbles (10_state.md R32), for every value the registers can hold. -/
theorem toNat_timePacked (r : Block) : (timePacked r).toNat =
    (r.hr.toNat / 10) * 1048576 + (r.hr.toNat % 10) * 65536 + (r.min.toNat / 10) * 4096 +
      (r.min.toNat % 10) * 256 + (r.sec.toNat / 10) * 16 + r.sec.toNat % 10 := by
  have hhr := r.hr.isLt
  have hmin := r.min.isLt
  have hsec := r.sec.isLt
  simp only [timePacked, toNat_append_eq, toNat_ones, toNat_tens (show r.hr.toNat < 160 by omega),
    toNat_tens (show r.min.toNat < 160 by omega), toNat_tens (show r.sec.toNat < 160 by omega)]
  omega

/-! ### The timeout flag -/

/-- TIMEOUT sets the flag and nothing else (46_event_dispatcher.md R221). -/
theorem exec_timeout (hc : s.cfg.wellFormed = true) (hb : s.r.booted = true) :
    exec .timeout s = .next { s with p := { s.p with timeout := true } } :=
  exec_of_booted hc hb

/-- A first command that executes hands its state to the rest. -/
theorem execAll_cons {i : Instr} {is : List Instr} (h : exec i s = .next t) :
    execAll (i :: is) s = execAll is t := by
  rw [execAll, h]

/-! ### The heartbeat -/

section Heartbeat

variable (s : State) (h : Nat)

/-! Every sub-step but the heartbeat's own step commutes with a write of `hb`: it neither reads nor writes
it (10_state.md R26). -/

theorem slotWrite_setHb (i : BitVec 4) (v : Byte) :
    slotWrite i v (s.setHb h) = (slotWrite i v s).setHb h := rfl

theorem readTimerStatus_setHb :
    readTimerStatus (s.setHb h) = ((readTimerStatus s).1, (readTimerStatus s).2.setHb h) := rfl

theorem readCap_setHb : readCap (s.setHb h) = ((readCap s).1, (readCap s).2.setHb h) := rfl

theorem readLine_setHb : readLine (s.setHb h) = ((readLine s).1, (readLine s).2.setHb h) := rfl

theorem readBtn_setHb : readBtn (s.setHb h) = ((readBtn s).1, (readBtn s).2.setHb h) := rfl

theorem readSwitches_setHb :
    readSwitches (s.setHb h) = ((readSwitches s).1, (readSwitches s).2.setHb h) := rfl

theorem ackTimer_setHb : ackTimer (s.setHb h) = (ackTimer s).setHb h := rfl

theorem ackCap_setHb (v : Bool) : ackCap v (s.setHb h) = (ackCap v s).setHb h := rfl

theorem advance_setHb : advance (s.setHb h) = (advance s).setHb h := by
  rw [advance_eq, advance_eq]; rfl

theorem setField_setHb (sel raw : Nat) :
    setField sel raw (s.setHb h) = (setField sel raw s).setHb h := by
  rw [setField_eq, setField_eq]; rfl

theorem advanceTimes_setHb (n : Nat) : ∀ s, advanceTimes n (s.setHb h) = (advanceTimes n s).setHb h := by
  induction n with
  | zero => exact fun _ => rfl
  | succ n ih => exact fun s => by rw [advanceTimes, advance_setHb, ih, advanceTimes]

theorem renderSlots_setHb (digits : List (BitVec 4)) (l : List Nat) :
    ∀ s, renderSlots digits l (s.setHb h) = (renderSlots digits l s).setHb h := by
  induction l with
  | nil => exact fun _ => rfl
  | cons i l ih =>
    intro s
    rw [renderSlots, slotWrite_setHb, ih, renderSlots, State.setHb_cfg]

theorem render_setHb : render (s.setHb h) = (render s).setHb h := renderSlots_setHb h _ _ s

theorem tick_setHb : tick (s.setHb h) = ((tick s).1, (tick s).2.setHb h) := by
  refine Prod.ext ?_ ?_
  · rw [tick_fst, tick_fst]; rfl
  · rw [tick_snd, tick_snd]; rfl

theorem latchAndAdvance_setHb (lvl : Bool) :
    latchAndAdvance lvl (s.setHb h) = (latchAndAdvance lvl s).setHb h := by
  cases lvl with
  | false => rfl
  | true =>
    have hadv := advanceTimes_setHb h s.cfg.edgeAdv (s.setLatch true)
    exact (congrArg render hadv).trans (render_setHb _ h)

theorem serviceEdge_setHb : serviceEdge (s.setHb h) = (serviceEdge s).setHb h := by
  simp only [serviceEdge, ackCap_setHb, readLine_setHb, latchAndAdvance_setHb]

theorem edgeService_setHb : edgeService (s.setHb h) = (edgeService s).setHb h := by
  simp only [edgeService, readCap_setHb, serviceEdge_setHb]
  split <;> rfl

theorem pressStep_setHb : pressStep (s.setHb h) = (pressStep s).setHb h := by
  simp only [pressStep, applySwitches, readSwitches_setHb, setField_setHb, render_setHb]
  rfl

theorem onButton_setHb (b : Bool) :
    onButton b (s.setHb h) = ((onButton b s).1, (onButton b s).2.setHb h) := by
  simp only [onButton, State.setHb_r, pressStep_setHb]
  cases s.r.phase <;> cases b <;> rfl

theorem levelService_setHb :
    levelService (s.setHb h) = ((levelService s).1, (levelService s).2.setHb h) := by
  simp only [levelService, readBtn_setHb, onButton_setHb]

theorem divideAndShow_setHb : divideAndShow (s.setHb h) = (divideAndShow s).setHb h := by
  simp only [divideAndShow, tick_setHb, advance_setHb, render_setHb]
  split <;> rfl

theorem timerServiceIrq_setHb : timerServiceIrq (s.setHb h) = (timerServiceIrq s).setHb h := by
  simp only [timerServiceIrq, ackTimer_setHb, divideAndShow_setHb]

theorem dispatchCause_setHb (c : Cause) :
    dispatchCause c (s.setHb h) = (dispatchCause c s).setHb h := by
  simp only [dispatchCause, State.setHb_cfg, timerServiceIrq_setHb, edgeService_setHb]
  cases classifyCause s.cfg c <;> cases s.cfg.edgeLayout <;> rfl

/-- The heartbeat's own step reads `hb`, but to write it only. -/
theorem beat_setHb : beat (s.setHb h) = (beat s).setHb ((h + 1) % 2 ^ s.cfg.hbW) := rfl

theorem timerServicePoll_setHb :
    ∃ k, timerServicePoll (s.setHb h) = (timerServicePoll s).setHb k := by
  simp only [timerServicePoll, readTimerStatus_setHb, ackTimer_setHb, beat_setHb, divideAndShow_setHb]
  split
  · exact ⟨_, rfl⟩
  · exact ⟨h, rfl⟩

theorem pollIteration_setHb : ∃ k, pollIteration (s.setHb h) = (pollIteration s).setHb k := by
  simp only [pollIteration, levelService_setHb]
  split
  · exact timerServicePoll_setHb _ h
  · exact ⟨h, rfl⟩

/-- A command carries a difference in `hb` on to a difference in `hb` at most; RESET removes it. -/
theorem effect_setHb (i : Instr) : ∃ k, effect i (s.setHb h) = (effect i s).setHb k := by
  cases i with
  | nop | encode | blank | decomp | wslot | sw | timeout | line | btn => exact ⟨h, rfl⟩
  | advance => exact ⟨h, advance_setHb s h⟩
  | setf sel raw => exact ⟨h, setField_setHb s h sel.toNat raw.toNat⟩
  | tick => exact ⟨h, by simp only [effect, tick_setHb]; rfl⟩
  | render => exact ⟨h, render_setHb s h⟩
  | edgesvc => exact ⟨h, edgeService_setHb s h⟩
  | levelsvc => exact ⟨h, by simp only [effect, levelService_setHb]⟩
  | timersvcIrq => exact ⟨h, timerServiceIrq_setHb s h⟩
  | timersvcPoll => exact timerServicePoll_setHb s h
  | irq c => exact ⟨h, dispatchCause_setHb s h c⟩
  | poll => exact pollIteration_setHb s h
  | reset => exact ⟨0, rfl⟩

/-- Admission does not read `hb` (30_encoding.md R87). -/
theorem refusalReason_setHb (i : Instr) : refusalReason i (s.setHb h) = refusalReason i s := rfl

/-- The same of a command, admitted or refused. -/
theorem exec_setHb {i : Instr} (hx : exec i s = .next t) :
    ∃ k, exec i (s.setHb h) = .next (t.setHb k) := by
  cases hi : refusalReason i s with
  | some why =>
    rw [exec_refused hi] at hx
    cases hx
    exact ⟨h, exec_refused hi⟩
  | none =>
    rw [exec_admitted hi] at hx
    cases hx
    obtain ⟨k, hk⟩ := effect_setHb s h i
    exact ⟨k, by rw [exec_admitted ((refusalReason_setHb s h i).trans hi), hk]⟩

end Heartbeat

end Sys2Proof.Machine

open Sys2Proof Sys2Proof.Machine

/-- Settles O13: each sub-step keeps the ranges (Sound), and no command but RESET writes the rest
(SameShell). -/
theorem everyStepKeepsInvariant : Obligations.EveryStepKeepsInvariant :=
  fun _ _ => Inv.step

/-- Settles O16: the control fields and `booted` are part of what every command but RESET keeps. -/
theorem onlyResetWritesControlFields : Obligations.OnlyResetWritesControlFields := by
  intro i s t hne h
  rcases exec_cases h with ⟨why, -, rfl⟩ | ⟨-, hreset, -⟩ | ⟨-, -, -, hshell⟩
  · exact ⟨rfl, rfl, rfl, rfl, rfl, rfl⟩
  · exact absurd hreset hne
  · exact ⟨hshell.timRun, hshell.timCont, hshell.timIto, hshell.capIe, hshell.ie, hshell.booted⟩

/-- Settles O17, from what a command and a step can do to `booted`. -/
theorem bootedOnceReset : Obligations.BootedOnceReset := by
  refine ⟨fun _ _ _ _ => rfl, fun s hc => ⟨_, exec_at_any_time hc rfl, rfl⟩, ?_, ?_, ?_, ?_⟩
  · intro i s t h hs
    rcases booted_of_exec h with hkept | ⟨-, -, hset⟩
    · exact hkept.trans hs
    · exact hset
  · intro i s t h hs ht
    rcases booted_of_exec h with hkept | ⟨hreset, hi, -⟩
    · simp [hkept, hs] at ht
    · exact ⟨hreset, hi⟩
  · intro s t h hs
    rcases booted_of_step h with hkept | ⟨-, hset⟩
    · exact hkept.trans hs
    · exact hset
  · intro s t h hs ht
    rcases booted_of_step h with hkept | ⟨hword, -⟩
    · simp [hkept, hs] at ht
    · exact hword

/-- Settles O24: in the two-unit variant the hours are 0, and so are their nibbles. -/
theorem packedViewIsDecimal : Obligations.PackedViewIsDecimal := by
  intro s ht
  refine ⟨toNat_timePacked s.r, fun hv => ?_⟩
  have hhr : s.r.hr.toNat = 0 := by rw [ht.ms hv]; rfl
  have hmin := s.r.min.isLt
  have hsec := s.r.sec.isLt
  rw [extract_eq_zero_iff, toNat_timePacked, hhr, Nat.div_eq_of_lt (by omega)]
  rfl

/-- Settles O46, by induction on the number of TIMEOUTs: a set flag is set again. -/
theorem timeoutsCoalesce : Obligations.TimeoutsCoalesce := by
  intro s n hc hb
  induction n generalizing s with
  | zero => exact execAll_cons (exec_timeout hc hb)
  | succ n ih =>
    rw [List.replicate_succ, execAll_cons (exec_timeout hc hb)]
    exact ih _ hc hb

/-- Settles O54: a write of `hb` before a command amounts to a write of `hb` after it. -/
theorem heartbeatIsCosmetic : Obligations.HeartbeatIsCosmetic := by
  intro i s t t' h ht ht'
  obtain ⟨k, hk⟩ := exec_setHb s h ht
  have heq : t.setHb k = t' := Host.Outcome.next.inj (hk.symm.trans ht')
  subst heq
  rfl

/-- Settles O14: before the first RESET only the cleared control fields are claimed, and both states after
RESET hold what RESET writes. -/
theorem invariantHoldsAtStart : Obligations.InvariantHoldsAtStart :=
  ⟨Inv.resetWith false false (by decide) (by decide),
    fun _ line btn _ hc hx => ⟨Inv.powerOn line btn hc hx, Inv.resetWith line btn hc hx⟩⟩
end

section
/-! PROOF. The command word: decoding and encoding (O1 to O5), and the step that runs the decoded command
(O8). -/

open Sys2Proof.Machine

namespace Sys2Proof

variable {swW : Nat} {w : Word}

/-! ### The word of a command decodes to it (30_encoding.md R81, R82) -/

/-- A field, from its value. -/
theorem extract_eq_of_toNat {n s k : Nat} {w : BitVec n} {x : BitVec k}
    (h : w.toNat / 2 ^ s % 2 ^ k = x.toNat) : w.extractLsb' s k = x :=
  BitVec.eq_of_toNat_eq ((toNat_extract w s k).trans h)

/-- The class of a word, from its value (R80). -/
theorem opClass_eq_of_toNat {op : BitVec 4} (h : w.toNat / 4096 = op.toNat) : opClass w = op :=
  BitVec.eq_of_toNat_eq ((toNat_opClass w).trans h)

/-- Format D. -/
theorem decode_encode_digit (d : BitVec 4) : decode swW (encode (.encode d)) = .ok (.encode d) := by
  have hd := d.isLt
  have hw : (encode (.encode d)).toNat = 0x1000 + d.toNat := by
    simp only [encode, toNat_append_eq, BitVec.toNat_ofNat]
    omega
  have hclass : opClass (encode (.encode d)) = 1#4 := opClass_eq_of_toNat (by simp; omega)
  have hclear : (encode (.encode d)).extractLsb' 4 8 = 0#8 := extract_eq_of_toNat (by simp; omega)
  have hfield : (encode (.encode d)).extractLsb' 0 4 = d := extract_eq_of_toNat (by omega)
  rw [decode, hclass]
  change decodeD _ = _
  rw [decodeD, if_pos hclear, hfield]

/-- Format S. -/
theorem decode_encode_setf (sel : BitVec 2) (raw : Byte) :
    decode swW (encode (.setf sel raw)) = .ok (.setf sel raw) := by
  have hsel := sel.isLt
  have hraw := raw.isLt
  have hw : (encode (.setf sel raw)).toNat = 0x4000 + sel.toNat * 256 + raw.toNat := by
    simp only [encode, toNat_append_eq, BitVec.toNat_ofNat]
    omega
  have hclass : opClass (encode (.setf sel raw)) = 4#4 := opClass_eq_of_toNat (by simp; omega)
  have hclear : (encode (.setf sel raw)).extractLsb' 10 2 = 0#2 :=
    extract_eq_of_toNat (by simp; omega)
  have hfst : (encode (.setf sel raw)).extractLsb' 8 2 = sel := extract_eq_of_toNat (by omega)
  have hsnd : (encode (.setf sel raw)).extractLsb' 0 8 = raw := extract_eq_of_toNat (by omega)
  rw [decode, hclass]
  change decodeS _ = _
  rw [decodeS, if_pos hclear, hfst, hsnd]

/-- Format W. -/
theorem decode_encode_wslot (idx : BitVec 4) (pat : Byte) :
    decode swW (encode (.wslot idx pat)) = .ok (.wslot idx pat) := by
  have hidx := idx.isLt
  have hpat := pat.isLt
  have hw : (encode (.wslot idx pat)).toNat = 0x8000 + idx.toNat * 256 + pat.toNat := by
    simp only [encode, toNat_append_eq, BitVec.toNat_ofNat]
    omega
  have hclass : opClass (encode (.wslot idx pat)) = 8#4 := opClass_eq_of_toNat (by simp; omega)
  have hfst : (encode (.wslot idx pat)).extractLsb' 8 4 = idx := extract_eq_of_toNat (by omega)
  have hsnd : (encode (.wslot idx pat)).extractLsb' 0 8 = pat := extract_eq_of_toNat (by omega)
  rw [decode, hclass]
  change Except.ok (Instr.wslot _ _) = _
  rw [hfst, hsnd]

/-- The operand field after a class. -/
theorem operand_append (op : BitVec 4) (x : BitVec 12) : operand (op ++ x) = x := by
  rw [operand, extract_append_inLow op x 0 12 (by omega), extract_whole]

/-- Format C. -/
theorem decode_encode_irq (c : Cause) : decode swW (encode (.irq c)) = .ok (.irq c) := by
  have hclass : opClass (encode (.irq c)) = 12#4 := extract_append_high 12#4 c
  rw [decode, hclass]
  change Except.ok (Instr.irq (operand (12#4 ++ c))) = _
  rw [operand_append]

/-- Format V: the operand fits `SW_W` bits, so the reserved bits are clear. -/
theorem decode_encode_sw {x : Switches} (h : fitsSwitches swW x = true) :
    decode swW (encode (.sw x)) = .ok (.sw x) := by
  have hclass : opClass (encode (.sw x)) = 14#4 := extract_append_high 14#4 x
  rw [decode, hclass]
  change decodeV swW (14#4 ++ x) = _
  rw [decodeV, operand_append, if_pos h]

/-- The word of a well-formed command decodes to it. -/
theorem decode_encode {i : Instr} (h : i.wellFormed swW = true) : decode swW (encode i) = .ok i := by
  cases i with
  | encode d => exact decode_encode_digit d
  | setf sel raw => exact decode_encode_setf sel raw
  | wslot idx pat => exact decode_encode_wslot idx pat
  | irq c => exact decode_encode_irq c
  | sw x => exact decode_encode_sw h
  | line v => cases v <;> rfl
  | btn v => cases v <;> rfl
  | nop | blank | advance | decomp | tick | render | edgesvc | levelsvc | timersvcIrq | timersvcPoll
  | poll | reset | timeout => rfl

/-! ### What decodes is well formed (R81) -/

/-- Only the operand of SW can be too wide, and format V checks it. -/
theorem wellFormed_of_decode {i : Instr} (hd : decode swW w = .ok i) : i.wellFormed swW = true := by
  cases i with
  | sw x =>
    have hw := encode_of_decode hd
    have hclass : opClass w = 14#4 := by rw [← hw]; exact extract_append_high 14#4 x
    rw [decode, hclass] at hd
    obtain ⟨hfits, hx⟩ := ite_ok_eq_ok_iff.1 hd
    cases hx
    exact hfits
  | nop | encode | blank | advance | setf | decomp | tick | render | wslot | edgesvc | levelsvc
  | timersvcIrq | timersvcPoll | irq | poll | reset | timeout | line | btn => rfl

/-! ### The reserved words (R84) -/

/-- A format with a reserved field accepts exactly where that field is clear. -/
theorem isOk_ite_iff {p : Prop} [Decidable p] {i : Instr} {e : DecodeReject} :
    (if p then Except.ok i else Except.error e).isOk = true ↔ p := by
  split <;> simp [*, Except.isOk, Except.toBool]

@[simp] theorem isOk_ok (i : Instr) : (Except.ok i : Except DecodeReject Instr).isOk = true := rfl

@[simp] theorem isOk_decodeN (i : Instr) (w : Word) :
    (decodeN i w).isOk = true ↔ w.toNat % 4096 = 0 := by
  rw [decodeN, isOk_ite_iff, operand, extract_eq_zero_iff]
  omega

@[simp] theorem isOk_decodeD (w : Word) : (decodeD w).isOk = true ↔ w.toNat % 4096 < 16 := by
  rw [decodeD, isOk_ite_iff, extract_eq_zero_iff]
  omega

@[simp] theorem isOk_decodeS (w : Word) : (decodeS w).isOk = true ↔ w.toNat % 4096 < 1024 := by
  rw [decodeS, isOk_ite_iff, extract_eq_zero_iff]
  omega

@[simp] theorem isOk_decodeT (w : Word) : (decodeT w).isOk = true ↔ w.toNat % 4096 < 2 := by
  rw [decodeT, isOk_ite_iff, extract_eq_zero_iff]
  omega

@[simp] theorem isOk_decodeV (swW : Nat) (w : Word) :
    (decodeV swW w).isOk = true ↔ w.toNat % 4096 < 2 ^ swW := by
  rw [decodeV, isOk_ite_iff, fitsSwitches, decide_eq_true_iff, toNat_operand]

@[simp] theorem isOk_decodeE (w : Word) : (decodeE w).isOk = true ↔
    (w.toNat % 4096 / 256 < 2 ∧ w.toNat % 256 = 0) ∨
      (2 ≤ w.toNat % 4096 / 256 ∧ w.toNat % 4096 / 256 < 4 ∧ w.toNat % 256 < 2) := by
  have hsub : (w.extractLsb' 8 4).toNat = w.toNat % 4096 / 256 := by rw [toNat_extract]; omega
  unfold decodeE
  rw [hsub]
  split
  case h_5 h0 h1 h2 h3 =>
    simp only [imp_false] at h0 h1 h2 h3
    simp only [Except.isOk, Except.toBool, Bool.false_eq_true, false_iff]
    omega
  all_goals
    rw [isOk_ite_iff, extract_eq_zero_iff]
    omega

/-- The decoder refuses exactly the reserved words. -/
theorem isOk_decode_iff (swW : Nat) (w : Word) :
    (decode swW w).isOk = true ↔ ¬ ReservedWord swW w := by
  have hclass := toNat_opClass w
  unfold decode
  split
  case h_16 =>
    have hc : w.toNat / 4096 = 15 := by
      have hlt := w.isLt
      simp only [imp_false] at *
      omega
    simp [ReservedWord, hc]
    omega
  all_goals
    rename_i hc
    rw [hc] at hclass
    simp [ReservedWord, ← hclass]

/-- A word that is not reserved decodes to exactly one command. -/
theorem existsUnique_decode (h : ¬ ReservedWord swW w) : ∃! i, decode swW w = .ok i := by
  have hok := (isOk_decode_iff swW w).2 h
  match hd : decode swW w with
  | .ok i => exact ⟨i, rfl, fun j hj => (Except.ok.inj hj).symm⟩
  | .error e => rw [hd] at hok; cases hok

/-- A reserved word is refused, for one of the three cases of R84. -/
theorem exists_decode_error (h : ReservedWord swW w) : ∃ e, decode swW w = .error e := by
  match hd : decode swW w with
  | .error e => exact ⟨e, rfl⟩
  | .ok i => exact absurd h ((isOk_decode_iff swW w).1 (by rw [hd]; rfl))

/-! ### The accepted words of each class, counted (R86) -/

/-- The number of operand fields with which a word of class `k` decodes. -/
def acceptedInClass (swW k : Nat) : Nat :=
  (List.range 4096).countP fun x => (decode swW (BitVec.ofNat 16 (k * 4096 + x))).isOk

/-- How many operand fields a class other than 0xF accepts; they are the smallest ones (R83). -/
def operandBound (swW : Nat) : Nat → Nat
  | 1 => 16
  | 4 => 1024
  | 8 | 12 => 4096
  | 11 => 2
  | 14 => 2 ^ swW
  | _ => 1

/-- How many of the 256 words of a `sub` of class 0xF are accepted; they are the smallest ones (R83). -/
def eventBound : Nat → Nat
  | 0 | 1 => 1
  | 2 | 3 => 2
  | _ => 0

theorem not_reserved_iff_lt_operandBound {k : Nat} (hk : k < 15) (hc : w.toNat / 4096 = k) :
    ¬ ReservedWord swW w ↔ w.toNat % 4096 < operandBound swW k := by
  have hx := Nat.mod_lt w.toNat (y := 4096) (by omega)
  interval_cases k <;> simp [ReservedWord, operandBound, hc] <;> omega

theorem not_reserved_iff_lt_eventBound (hc : w.toNat / 4096 = 15) :
    ¬ ReservedWord swW w ↔ w.toNat % 4096 % 256 < eventBound (w.toNat % 4096 / 256) := by
  have hx : w.toNat % 4096 / 256 < 16 := by omega
  simp only [ReservedWord, hc]
  generalize w.toNat % 4096 / 256 = sub at hx
  interval_cases sub <;> simp [eventBound]

/-- Of the values below `n`, those below a bound. -/
theorem count_lt_of_le {b n : Nat} (h : b ≤ n) : Nat.count (· < b) n = b := by
  obtain ⟨m, rfl⟩ := Nat.exists_eq_add_of_le h
  rw [Nat.count_add, Nat.count_of_forall fun _ hk => hk,
    Nat.count_of_forall_not fun _ _ => by omega, Nat.add_zero]

/-- The same block by block: a bound for each block of 256 values. -/
theorem count_blocks {f : Nat → Nat} (hf : ∀ j, f j ≤ 256) (n : Nat) :
    Nat.count (fun x => x % 256 < f (x / 256)) (n * 256) = ((List.range n).map f).sum := by
  induction n with
  | zero => simp
  | succ n ih =>
    have hblock : Nat.count (fun x => (n * 256 + x) % 256 < f ((n * 256 + x) / 256)) 256 = f n := by
      refine Eq.trans (List.countP_congr fun x hx => ?_) (count_lt_of_le (hf n))
      have hlt : x < 256 := List.mem_range.1 hx
      have hmod : (n * 256 + x) % 256 = x := by omega
      have hdiv : (n * 256 + x) / 256 = n := by omega
      simp only [hmod, hdiv]
    rw [Nat.succ_mul, Nat.count_add, ih, hblock, List.range_succ, List.map_append, List.sum_append]
    simp

/-- The accepted words of a class are the operand fields that leave its words unreserved. -/
theorem acceptedInClass_eq_count {k : Nat} {p : Nat → Prop} [DecidablePred p] (hk : k < 16)
    (hp : ∀ w : Word, w.toNat / 4096 = k → (¬ ReservedWord swW w ↔ p (w.toNat % 4096))) :
    acceptedInClass swW k = Nat.count p 4096 := by
  apply List.countP_congr
  intro x hx
  have hlt : x < 4096 := List.mem_range.1 hx
  have hw : (BitVec.ofNat 16 (k * 4096 + x)).toNat = k * 4096 + x := by
    rw [BitVec.toNat_ofNat]; omega
  have hmod : (k * 4096 + x) % 4096 = x := by omega
  rw [isOk_decode_iff, hp _ (by omega), hw, hmod, decide_eq_true_iff]

theorem acceptedInClass_operands {k : Nat} (hk : k < 15) (hsw : swW ≤ 12) :
    acceptedInClass swW k = operandBound swW k := by
  have hb : operandBound swW k ≤ 4096 := by
    have : 2 ^ swW ≤ 2 ^ 12 := Nat.pow_le_pow_right (by omega) hsw
    unfold operandBound
    split <;> omega
  rw [acceptedInClass_eq_count (p := (· < operandBound swW k)) (by omega)
    fun _ => not_reserved_iff_lt_operandBound hk, count_lt_of_le hb]

theorem acceptedInClass_events : acceptedInClass swW 15 = 1 + 1 + 2 + 2 := by
  have hb (j : Nat) : eventBound j ≤ 256 := by unfold eventBound; split <;> omega
  rw [acceptedInClass_eq_count (p := fun x => x % 256 < eventBound (x / 256)) (by omega)
    fun _ => not_reserved_iff_lt_eventBound]
  exact count_blocks hb 16

theorem acceptedInClass_table (hsw : swW ≤ 12) : (List.range 16).map (acceptedInClass swW) =
    [1, 16, 1, 1, 1024, 1, 1, 1, 4096, 1, 1, 2, 4096, 1, 2 ^ swW, 1 + 1 + 2 + 2] := by
  rw [List.range_succ, List.map_append, List.map_congr_left
    fun k hk => acceptedInClass_operands (List.mem_range.1 hk) hsw, List.map_singleton,
    acceptedInClass_events]
  rfl

end Sys2Proof

open Sys2Proof

/-- Settles O2, format by format. -/
theorem decodeOfEncode : Obligations.DecodeOfEncode := fun _ _ => decode_encode

/-- Settles O3: format V checks the one operand that can be too wide. -/
theorem encodeOfDecode : Obligations.EncodeOfDecode :=
  fun _ _ _ hd => ⟨encode_of_decode hd, wellFormed_of_decode hd⟩

/-- Settles O4: the decoder refuses exactly the reserved words. -/
theorem reservedWordsAreRefused : Obligations.ReservedWordsAreRefused := by
  intro s w rest hc hq
  refine ⟨fun hreserved => ?_, existsUnique_decode⟩
  obtain ⟨e, hd⟩ := exists_decode_error hreserved
  rw [step_of_reserved hq hd]
  simp [refuseWord, State.refuse, hc]

/-- Settles O1: each word evaluates. -/
theorem writtenWordsDecode : Obligations.WrittenWordsDecode := by
  unfold Obligations.WrittenWordsDecode
  decide

/-- Settles O8: the word put at the head of the queue is the one the step takes. -/
theorem stepRunsDecodedCommand : Obligations.StepRunsDecodedCommand := by
  refine ⟨fun s w rest i => step_of_decodes, fun s w i hd => ?_⟩
  have hq : (s.withFetchWord 16 w.toNat).commands = w :: s.commands := by
    rw [State.withFetchWord, Nat.mod_eq_of_lt w.isLt, BitVec.ofNat_toNat, BitVec.setWidth_eq]
    rfl
  exact step_of_decodes hq hd

/-- Settles O5: the accepted operand fields of a class are the smallest ones. -/
theorem acceptedWordCounts : Obligations.AcceptedWordCounts := by
  refine ⟨fun swW => acceptedInClass_table, ?_⟩
  change ((List.range 16).map (acceptedInClass 10)).sum = _
  rw [acceptedInClass_table (by omega)]
  rfl
end

section
/-! PROOF. The admission table (O10), row by row. -/

namespace Sys2Proof.Machine

variable {i : Instr} {s : State}

/-! ### The admission table, row by row (30_encoding.md R87) -/

theorem worksBeforeReset_iff (i : Instr) : worksBeforeReset i = true ↔
    i = .reset ∨ (∃ v, i = .line v) ∨ (∃ v, i = .btn v) ∨ (∃ x, i = .sw x) := by
  cases i <;> simp [worksBeforeReset]

theorem wrongMode_iff (i : Instr) (m : Mode) : wrongMode i m = true ↔
    ((((∃ c, i = .irq c) ∨ i = .edgesvc ∨ i = .timersvcIrq) ∧ m ≠ .irq) ∨
      ((i = .poll ∨ i = .levelsvc ∨ i = .timersvcPoll) ∧ m ≠ .poll)) := by
  cases i <;> cases m <;> simp [wrongMode, needsMode]

theorem entryCause_eq_none_iff (i : Instr) : entryCause i = none ↔ ∀ c, i ≠ .irq c := by
  cases i <;> simp [entryCause]

/-- The cause is the timer's or the edge source's, and its request is not pending (60_exceptions.md R244,
R246). -/
def NotPending (s : State) (c : Cause) : Prop :=
  (c = s.cfg.causeTimer ∧ ¬(s.p.timeout = true ∧ s.p.timIto = true)) ∨
    (c ≠ s.cfg.causeTimer ∧ s.cfg.edgeLayout = .distinct ∧ c = s.cfg.causeEdge ∧
      ¬(s.p.cap = true ∧ s.p.capIe = true))

theorem entryRefusal_of_disabled {c : Cause} (he : s.p.ie = false) :
    entryRefusal s c = some .irqDisabled := by
  simp [entryRefusal, he]

/-- With interrupts enabled, only the lack of a pending request refuses an entry. -/
theorem entryRefusal_of_enabled {c : Cause} (he : s.p.ie = true) :
    (NotPending s c → entryRefusal s c = some .irqNotPending) ∧
    (¬ NotPending s c → entryRefusal s c = none) := by
  unfold NotPending entryRefusal classifyCause irqTimer irqEdge
  by_cases ht : c = s.cfg.causeTimer
  · simp [he, ht]
  · cases hl : s.cfg.edgeLayout with
    | shared => simp [he, ht]
    | distinct =>
      by_cases hedge : c = s.cfg.causeEdge
      · have hne : s.cfg.causeEdge ≠ s.cfg.causeTimer := hedge ▸ ht
        simp [he, hedge, hne]
      · simp [he, ht, hedge]

section
variable (hc : s.cfg.wellFormed = true)
include hc

theorem refusalReason_of_operand (hi : i.wellFormed s.cfg.swW = false) :
    refusalReason i s = some .rsvEncoding := by
  simp [refusalReason, hc, hi]

variable (hi : i.wellFormed s.cfg.swW = true)
include hi

theorem refusalReason_of_not_booted (hb : s.r.booted = false) (he : worksBeforeReset i = false) :
    refusalReason i s = some .notReset := by
  simp [refusalReason, hc, hi, hb, he]

variable (hb : s.r.booted = true ∨ worksBeforeReset i = true)
include hb

theorem refusalReason_of_wrongMode (hm : wrongMode i s.cfg.mode = true) :
    refusalReason i s = some .wrongMode := by
  rcases hb with h | h <;> simp [refusalReason, hc, hi, h, hm]

/-- A command that matches none of the first four rows is decided by the last two. -/
theorem refusalReason_of_entryCause (hm : wrongMode i s.cfg.mode = false) :
    refusalReason i s = (entryCause i).bind (entryRefusal s) := by
  cases hcause : entryCause i <;> rcases hb with h | h <;>
    simp [refusalReason, hc, hi, h, hm, hcause]

end
end Sys2Proof.Machine

open Sys2Proof Sys2Proof.Machine

/-- Settles O10: each premise of the statement is the condition of one row. -/
theorem admissionTable : Obligations.AdmissionTable := by
  intro i s refusedWith early ofIrq ofPoll other notPending
  refine ⟨fun hc => exec_refused (refusalReason_of_ill_formed i hc), fun hc =>
    ⟨fun hi => exec_refused (refusalReason_of_operand hc hi), fun hi => ⟨?_, fun hb => ⟨?_, ?_⟩⟩⟩⟩
  · rintro ⟨hb, hearly⟩
    have he : worksBeforeReset i = false := by
      rwa [← Bool.not_eq_true, worksBeforeReset_iff]
    exact exec_refused (refusalReason_of_not_booted hc hi hb he)
  · intro hother
    exact exec_refused (refusalReason_of_wrongMode hc hi (hb.imp_right (worksBeforeReset_iff i).2)
      ((wrongMode_iff i s.cfg.mode).2 hother))
  · intro hother
    have hm : wrongMode i s.cfg.mode = false := by
      rwa [← Bool.not_eq_true, wrongMode_iff]
    have hrows := refusalReason_of_entryCause hc hi (hb.imp_right (worksBeforeReset_iff i).2) hm
    constructor
    · rintro c rfl
      exact ⟨fun he => exec_refused (hrows.trans (entryRefusal_of_disabled he)),
        fun he hn => exec_refused (hrows.trans ((entryRefusal_of_enabled he).1 hn)),
        fun he hn => hrows.trans ((entryRefusal_of_enabled he).2 hn)⟩
    · intro hne
      rw [hrows, (entryCause_eq_none_iff i).2 hne]
      rfl
end

section
/-! PROOF. The assembler: the line of a command (O59) and the pseudo-instructions (O60). -/

namespace Sys2Proof.Machine

variable {c : Config} {i : Instr} {m : Mnemonic}

/-! ### Numbers and their digits (30_encoding.md R89) -/

/-- The value of digits, the most significant first, after a value read so far. -/
def digitsFold (base acc : Nat) (ds : List Nat) : Nat := ds.foldl (fun a d => a * base + d) acc

/-- A numeral is a list of digits of its base, with the number as their value. -/
theorem numeral_digits {base n : Nat} (hbase : 0 < base) (hn : n < base ^ 4) :
    ∃ ds : List Nat, ds ≠ [] ∧ numeral base n = ds.map Nat.digitChar ∧ (∀ d ∈ ds, d < base) ∧
      digitsFold base 0 ds = n := by
  have hmod (k : Nat) : k % base < base := Nat.mod_lt k hbase
  have hsquare : base ^ 2 = base * base := Nat.pow_two base
  have hcube : base ^ 3 = base * base * base := by rw [Nat.pow_succ, hsquare]
  unfold numeral digitsFold
  split_ifs with h1 h2 h3
  · exact ⟨[n], by simp, rfl, by simpa using h1, by simp⟩
  · have hfirst : n / base < base := Nat.div_lt_of_lt_mul (by rwa [← hsquare])
    exact ⟨[n / base, n % base], by simp, rfl, by simp [hfirst, hmod], by simp [Nat.div_add_mod']⟩
  · have hfirst : n / base ^ 2 < base := Nat.div_lt_of_lt_mul (by rwa [← Nat.pow_succ])
    refine ⟨[n / base ^ 2, n / base % base, n % base], by simp, rfl, by simp [hfirst, hmod], ?_⟩
    simp [hsquare, ← Nat.div_div_eq_div_mul, Nat.div_add_mod']
  · have hfirst : n / base ^ 3 < base := Nat.div_lt_of_lt_mul (by rwa [← Nat.pow_succ])
    refine ⟨[n / base ^ 3, n / base ^ 2 % base, n / base % base, n % base], by simp, rfl,
      by simp [hfirst, hmod], ?_⟩
    simp [hcube, hsquare, ← Nat.div_div_eq_div_mul, Nat.div_add_mod']

/-- The two bases of R89. -/
theorem digitValue_digitChar {base : Nat} (hbase : base = 10 ∨ base = 16) :
    ∀ d < base, digitValue base (Nat.digitChar d) = some d := by
  rcases hbase with rfl | rfl <;> decide

/-- Digits are read back one by one. -/
theorem digitsValue_digits {base : Nat} (hbase : base = 10 ∨ base = 16) {ds : List Nat} :
    ∀ acc, (∀ d ∈ ds, d < base) →
      digitsValue base acc (ds.map Nat.digitChar) = some (digitsFold base acc ds) := by
  induction ds with
  | nil => intro acc _; rfl
  | cons d ds ih =>
    intro acc hds
    rw [List.forall_mem_cons] at hds
    simp [digitsValue, digitValue_digitChar hbase d hds.1, ih _ hds.2, digitsFold]

/-- A text that no space, comma or comment mark divides. -/
def IsWord (cs : List Char) : Prop :=
  cs ≠ [] ∧ ∀ ch ∈ cs, isSpace ch = false ∧ ch ≠ ',' ∧ ch ≠ ';'

theorem IsWord.no_space {cs : List Char} (h : IsWord cs) : ∀ ch ∈ cs, isSpace ch = false :=
  fun ch hch => (h.2 ch hch).1

theorem IsWord.no_comma {cs : List Char} (h : IsWord cs) : ∀ ch ∈ cs, ch ≠ ',' := by
  intro ch hch
  obtain ⟨-, hcomma, -⟩ := h.2 ch hch
  exact hcomma

theorem IsWord.no_comment {cs : List Char} (h : IsWord cs) : ∀ ch ∈ cs, ch ≠ ';' := by
  intro ch hch
  obtain ⟨-, -, hmark⟩ := h.2 ch hch
  exact hmark

/-- A digit of either base divides no text. -/
theorem digitChar_plain : ∀ d < 16, isSpace (Nat.digitChar d) = false ∧ Nat.digitChar d ≠ ',' ∧
    Nat.digitChar d ≠ ';' := by decide

/-- A way to write numbers suits `n`: the text is one word and is read back. -/
structure Writes (number : Nat → List Char) (n : Nat) : Prop where
  word : IsWord (number n)
  read : parseNumber (number n) = .ok n

/-- A numeral is one word, has no `x` in it, and is read back in its base. -/
theorem numeral_read {base n : Nat} (hbase : base = 10 ∨ base = 16) (hn : n < base ^ 4) :
    IsWord (numeral base n) ∧ 'x' ∉ numeral base n ∧ numberOf base (numeral base n) = .ok n := by
  obtain ⟨ds, hne, htext, hlt, hvalue⟩ := numeral_digits (by omega) hn
  have hplain (d : Nat) (hd : d ∈ ds) := digitChar_plain d (by have := hlt d hd; omega)
  rw [htext]
  refine ⟨⟨by simpa using hne, by simpa using hplain⟩, by simp, ?_⟩
  simp [numberOf, hne, digitsValue_digits hbase 0 hlt, hvalue]

theorem writes_decimal {n : Nat} (hn : n < 4096) : Writes decimal n := by
  obtain ⟨hword, hx, hread⟩ := numeral_read (.inl rfl) (by omega : n < 10 ^ 4)
  refine ⟨hword, ?_⟩
  have hmark : ((decimal n).take 2 == "0x".toList) = false := by
    rw [beq_eq_false_iff_ne]
    exact fun h => hx (List.mem_of_mem_take (h ▸ by decide : 'x' ∈ (decimal n).take 2))
  rw [parseNumber, hmark]
  exact hread

theorem writes_hexadecimal {n : Nat} (hn : n < 4096) : Writes hexadecimal n := by
  obtain ⟨⟨-, hplain⟩, -, hread⟩ := numeral_read (.inr rfl) (by omega : n < 16 ^ 4)
  exact ⟨⟨by simp [hexadecimal], by simpa [hexadecimal] using ⟨by decide, by decide, hplain⟩⟩, hread⟩

/-! ### Spaces, commas and comments (R89) -/

/-- A text that begins and ends with a word. -/
def Trimmed (cs : List Char) : Prop :=
  (∃ u v, IsWord u ∧ cs = u ++ v) ∧ ∃ u v, IsWord v ∧ cs = u ++ v

theorem IsWord.trimmed {u : List Char} (hu : IsWord u) : Trimmed u :=
  ⟨⟨u, [], hu, by simp⟩, ⟨[], u, hu, by simp⟩⟩

theorem Trimmed.append {a b : List Char} (ha : Trimmed a) (hb : Trimmed b) (mid : List Char) :
    Trimmed (a ++ (mid ++ b)) := by
  obtain ⟨⟨u, v, hu, rfl⟩, -⟩ := ha
  obtain ⟨-, ⟨x, y, hy, rfl⟩⟩ := hb
  exact ⟨⟨u, v ++ (mid ++ (x ++ y)), hu, by simp⟩, ⟨u ++ v ++ mid ++ x, y, hy, by simp⟩⟩

theorem dropWhile_isSpace_word_append {u : List Char} (hu : IsWord u) (v : List Char) :
    (u ++ v).dropWhile isSpace = u ++ v := by
  cases u with
  | nil => exact absurd rfl hu.1
  | cons ch u => simp [hu.no_space ch (by simp)]

theorem Trimmed.trimSpaces_eq {cs : List Char} (h : Trimmed cs) : trimSpaces cs = cs := by
  obtain ⟨⟨u, v, hu, hstart⟩, ⟨x, y, hy, hend⟩⟩ := h
  have hfront : cs.dropWhile isSpace = cs := by
    rw [hstart, dropWhile_isSpace_word_append hu]
  have hyr : IsWord y.reverse := by simpa [IsWord] using hy
  rw [trimSpaces, hfront, hend, List.reverse_append, dropWhile_isSpace_word_append hyr,
    ← List.reverse_append, List.reverse_reverse]

@[simp] theorem trimSpaces_space_cons (cs : List Char) : trimSpaces (' ' :: cs) = trimSpaces cs := rfl

theorem Trimmed.ne_nil {cs : List Char} (h : Trimmed cs) : cs ≠ [] := by
  obtain ⟨⟨u, v, ⟨hu, -⟩, rfl⟩, -⟩ := h
  simp [hu]

/-- A text without a comma is one piece. -/
theorem splitCommas_of_no_comma {p : List Char} (hp : ∀ ch ∈ p, ch ≠ ',') : splitCommas p = [p] := by
  induction p with
  | nil => rfl
  | cons ch p ih =>
    rw [List.forall_mem_cons] at hp
    simp [splitCommas, hp.1, ih hp.2]

/-- The first comma ends the first piece. -/
theorem splitCommas_append_comma {p : List Char} (hp : ∀ ch ∈ p, ch ≠ ',') (rest : List Char) :
    splitCommas (p ++ ',' :: rest) = p :: splitCommas rest := by
  induction p with
  | nil => simp [splitCommas]
  | cons ch p ih =>
    rw [List.forall_mem_cons] at hp
    simp [splitCommas, hp.1, ih hp.2]

theorem parseNumbers_cons_of_ok {piece : List Char} {more : List (List Char)} {n : Nat}
    {ns : List Nat} (hn : parseNumber (trimSpaces piece) = .ok n) (hns : parseNumbers more = .ok ns) :
    parseNumbers (piece :: more) = .ok (n :: ns) := by
  simp [parseNumbers, hn, hns]

/-- A space before the first number does not matter. -/
theorem parseNumbers_space {cs : List Char} {ns : List Nat}
    (h : parseNumbers (splitCommas cs) = .ok ns) (hne : ns ≠ []) :
    parseNumbers (splitCommas (' ' :: cs)) = .ok ns := by
  match hcs : splitCommas cs with
  | [] =>
    rw [hcs, parseNumbers] at h
    cases h
    exact absurd rfl hne
  | piece :: more =>
    rw [hcs] at h
    simpa [splitCommas, hcs, parseNumbers] using h

/-! ### The operands of a line -/

/-- The operands of a line without the space before them. -/
def operandList (number : Nat → List Char) (ops : List Nat) : List Char :=
  ((ops.map number).intersperse [',', ' ']).flatten

theorem operandText_cons (number : Nat → List Char) (n : Nat) (ns : List Nat) :
    operandText number (n :: ns) = ' ' :: operandList number (n :: ns) := rfl

@[simp] theorem operandList_singleton (number : Nat → List Char) (n : Nat) :
    operandList number [n] = number n := by
  simp [operandList]

@[simp] theorem operandList_cons_cons (number : Nat → List Char) (n k : Nat) (ns : List Nat) :
    operandList number (n :: k :: ns) = number n ++ ([',', ' '] ++ operandList number (k :: ns)) := by
  simp [operandList]

section
variable {number : Nat → List Char} {n : Nat} {ns : List Nat}
  (h : ∀ k ∈ n :: ns, Writes number k)
include h

theorem operandList_trimmed : Trimmed (operandList number (n :: ns)) := by
  induction ns generalizing n with
  | nil => rw [operandList_singleton]; exact (h n (by simp)).word.trimmed
  | cons k ks ih =>
    rw [List.forall_mem_cons] at h
    rw [operandList_cons_cons]
    exact h.1.word.trimmed.append (ih h.2) _

theorem operandList_no_comment : ∀ ch ∈ operandList number (n :: ns), ch ≠ ';' := by
  induction ns generalizing n with
  | nil =>
    rw [operandList_singleton]
    exact (h n (by simp)).word.no_comment
  | cons k ks ih =>
    rw [List.forall_mem_cons] at h
    rw [operandList_cons_cons, List.forall_mem_append, List.forall_mem_append]
    exact ⟨h.1.word.no_comment, by simp, ih h.2⟩

theorem parseNumbers_operandList :
    parseNumbers (splitCommas (operandList number (n :: ns))) = .ok (n :: ns) := by
  induction ns generalizing n with
  | nil =>
    have hn := h n (by simp)
    rw [operandList_singleton, splitCommas_of_no_comma hn.word.no_comma]
    exact parseNumbers_cons_of_ok (by rw [hn.word.trimmed.trimSpaces_eq, hn.read]) rfl
  | cons k ks ih =>
    rw [List.forall_mem_cons] at h
    obtain ⟨hn, hks⟩ := h
    rw [operandList_cons_cons, List.cons_append, splitCommas_append_comma hn.word.no_comma]
    exact parseNumbers_cons_of_ok (by rw [hn.word.trimmed.trimSpaces_eq, hn.read])
      (parseNumbers_space (ih hks) (by simp))

end

theorem parseOperands_of_trimmed {cs text : List Char} (ht : trimSpaces cs = text) (hne : text ≠ []) :
    parseOperands cs = parseNumbers (splitCommas text) := by
  rw [parseOperands, ht]
  cases text with
  | nil => exact absurd rfl hne
  | cons => rfl

/-- What the operands of a line have to be, after its mnemonic. -/
structure Operands (args : List Char) (ops : List Nat) : Prop where
  starts     : args = [] ∨ ∃ rest, args = ' ' :: rest
  no_comment : ∀ ch ∈ args, ch ≠ ';'
  trimmed    : ∀ word, IsWord word → Trimmed (word ++ args)
  parses     : parseOperands args = .ok ops

theorem operands_operandText {number : Nat → List Char} {ops : List Nat}
    (h : ∀ k ∈ ops, Writes number k) : Operands (operandText number ops) ops := by
  match ops with
  | [] =>
    rw [operandText]
    exact ⟨.inl rfl, by simp, fun word hw => by simpa using hw.trimmed, rfl⟩
  | n :: ns =>
    have htrim := operandList_trimmed h
    rw [operandText_cons]
    refine ⟨.inr ⟨_, rfl⟩, by simpa using operandList_no_comment h,
      fun word hw => hw.trimmed.append htrim [' '], ?_⟩
    have ht : trimSpaces (' ' :: operandList number (n :: ns)) = operandList number (n :: ns) := by
      rw [trimSpaces_space_cons, htrim.trimSpaces_eq]
    rw [parseOperands_of_trimmed ht htrim.ne_nil, parseNumbers_operandList h]

/-! ### The line of a command -/

theorem isWord_spelling (m : Mnemonic) : IsWord (spelling m).toList := by
  cases m <;> simp [IsWord, spelling, isSpace]

theorem parseMnemonic_spelling (m : Mnemonic) : parseMnemonic (spelling m).toList = .ok m := by
  cases m <;> decide

/-- A comment runs to the end of the line. -/
theorem withoutComment_append {cs : List Char} (hcs : ∀ ch ∈ cs, ch ≠ ';') (ht : Trimmed cs)
    {tail : List Char} (htail : tail = [] ∨ ∃ comment, tail = ';' :: comment) :
    withoutComment (cs ++ tail) = cs := by
  have hstop : tail.takeWhile (fun ch => ch != ';') = [] := by
    rcases htail with rfl | ⟨comment, rfl⟩ <;> rfl
  rw [withoutComment, List.takeWhile_append_of_pos (by simpa using hcs), hstop, List.append_nil,
    ht.trimSpaces_eq]

theorem assembleLine_words {word args tail : List Char} {ops : List Nat} (hword : IsWord word)
    (hm : parseMnemonic word = .ok m) (hargs : Operands args ops)
    (htail : tail = [] ∨ ∃ comment, tail = ';' :: comment) :
    assembleLine c (String.ofList (word ++ args ++ tail)) = lineCommands c m ops := by
  have htrim := hargs.trimmed word hword
  have hletters : ∀ ch ∈ word, (!isSpace ch) = true := by simpa using hword.no_space
  have htext : withoutComment (word ++ args ++ tail) = word ++ args := by
    refine withoutComment_append ?_ htrim htail
    rw [List.forall_mem_append]
    exact ⟨hword.no_comment, hargs.no_comment⟩
  have hfirst : (word ++ args).takeWhile (fun ch => !isSpace ch) = word := by
    rw [List.takeWhile_append_of_pos hletters]
    rcases hargs.starts with rfl | ⟨rest, rfl⟩ <;> simp [isSpace]
  have hrest : (word ++ args).dropWhile (fun ch => !isSpace ch) = args := by
    rw [List.dropWhile_append_of_pos hletters]
    rcases hargs.starts with rfl | ⟨rest, rfl⟩ <;> simp [isSpace]
  rw [assembleLine, String.toList_ofList, htext]
  split
  next hnil => exact absurd hnil htrim.ne_nil
  next => rw [hfirst, hrest, hm, hargs.parses]

/-- Every operand of a command is below 4096 (R82). -/
theorem operandsOf_lt (i : Instr) : ∀ n ∈ operandsOf i, n < 4096 := by
  cases i with
  | encode d => have := d.isLt; simp [operandsOf]; omega
  | setf sel raw => have := sel.isLt; have := raw.isLt; simp [operandsOf]; omega
  | wslot idx pat => have := idx.isLt; have := pat.isLt; simp [operandsOf]; omega
  | irq cause => simpa [operandsOf] using cause.isLt
  | sw x => simpa [operandsOf] using x.isLt
  | line v => cases v <;> simp [operandsOf]
  | btn v => cases v <;> simp [operandsOf]
  | nop | blank | advance | decomp | tick | render | edgesvc | levelsvc | timersvcIrq | timersvcPoll
  | poll | reset | timeout => simp [operandsOf]

theorem assembleLine_commandText {number : Nat → List Char} (hnumber : number ∈ [decimal, hexadecimal])
    {tail : List Char} (htail : tail = [] ∨ ∃ comment, tail = ';' :: comment) :
    assembleLine c (String.ofList (commandText number i ++ tail)) =
      lineCommands c (mnemonicOf i) (operandsOf i) := by
  have hwrites : ∀ n ∈ operandsOf i, Writes number n := by
    intro n hn
    have hlt := operandsOf_lt i n hn
    simp only [List.mem_cons, List.not_mem_nil, or_false] at hnumber
    rcases hnumber with rfl | rfl
    · exact writes_decimal hlt
    · exact writes_hexadecimal hlt
  exact assembleLine_words (isWord_spelling _) (parseMnemonic_spelling _)
    (operands_operandText hwrites) htail

/-! ### The commands of a line (R89, R90) -/

theorem oneOperand_of_lt {bound n : Nat} (h : n < bound) (is : Nat → List Instr) :
    oneOperand bound is [n] = .ok (is n) := by
  simp [oneOperand, h]

theorem oneOperand_of_ge {bound n : Nat} (h : bound ≤ n) (is : Nat → List Instr) :
    oneOperand bound is [n] = .error .outOfRange := by
  simp [oneOperand, h]

theorem twoOperands_of_lt {bound bound' n k : Nat} (hn : n < bound) (hk : k < bound')
    (is : Nat → Nat → List Instr) : twoOperands bound bound' is [n, k] = .ok (is n k) := by
  simp [twoOperands, hn, hk]

theorem twoOperands_of_ge {bound bound' n k : Nat} (h : bound ≤ n ∨ bound' ≤ k)
    (is : Nat → Nat → List Instr) : twoOperands bound bound' is [n, k] = .error .outOfRange := by
  rw [twoOperands, if_neg (by omega)]

@[simp] theorem toNat_beq_one (v : Bool) : (v.toNat == 1) = v := by
  cases v <;> rfl

/-- The operands of a well-formed command are in range and are read back. -/
theorem lineCommands_operandsOf (h : i.wellFormed c.swW = true) :
    lineCommands c (mnemonicOf i) (operandsOf i) = .ok [i] := by
  cases i with
  | encode d =>
    have hd : d.toNat < 16 := d.isLt
    simp [mnemonicOf, operandsOf, lineCommands, oneOperand_of_lt hd]
  | setf sel raw =>
    have hfst : sel.toNat < 4 := sel.isLt
    have hsnd : raw.toNat < 256 := raw.isLt
    simp [mnemonicOf, operandsOf, lineCommands, twoOperands_of_lt hfst hsnd]
  | wslot idx pat =>
    have hfst : idx.toNat < 16 := idx.isLt
    have hsnd : pat.toNat < 256 := pat.isLt
    simp [mnemonicOf, operandsOf, lineCommands, twoOperands_of_lt hfst hsnd]
  | irq cause =>
    have hd : cause.toNat < 4096 := cause.isLt
    simp [mnemonicOf, operandsOf, lineCommands, oneOperand_of_lt hd]
  | sw x =>
    have hx : x.toNat < 2 ^ c.swW := of_decide_eq_true h
    simp [mnemonicOf, operandsOf, lineCommands, oneOperand_of_lt hx]
  | line v | btn v => simp [mnemonicOf, operandsOf, lineCommands, oneOperand_of_lt v.toNat_lt]
  | nop | blank | advance | decomp | tick | render | edgesvc | levelsvc | timersvcIrq | timersvcPoll
  | poll | reset | timeout => rfl

end Sys2Proof.Machine

open Sys2Proof Sys2Proof.Machine

/-- Settles O59: a line is its mnemonic's word and its operands, and each number is read back digit by
digit. -/
theorem assemblerSyntaxTable : Obligations.AssemblerSyntaxTable := by
  refine ⟨rfl, parseMnemonic_spelling, ?_, ?_⟩
  · intro c i hi
    have hline := lineCommands_operandsOf hi
    refine ⟨hline, fun number hnumber => ⟨?_, fun comment => ?_⟩⟩
    · have hbare := assembleLine_commandText (c := c) (i := i) hnumber (.inl rfl)
      rw [List.append_nil] at hbare
      exact hbare.trans hline
    · exact (assembleLine_commandText hnumber (.inr ⟨comment, rfl⟩)).trans hline
  · intro c n k
    simp +contextual [lineCommands, oneOperand_of_ge, twoOperands_of_ge]

/-- Settles O60: each expansion is read off its line, with the operand in range. -/
theorem pseudoInstructionsExpand : Obligations.PseudoInstructionsExpand := by
  refine ⟨rfl, fun c n body is h => ?_, fun c => ⟨rfl, rfl⟩, fun c v => ⟨fun hl => ?_, fun hl => ?_⟩,
    fun c x hx => ?_⟩
  · rw [assembleOne, h]
  · simp [lineCommands, hl, oneOperand_of_lt v.toNat_lt]
  · simp [lineCommands, hl]
  · simp [lineCommands, oneOperand_of_lt hx]

end

section
/-! PROOF. The digit encoder: ENCODE (O18) and BLANK (O19). -/

namespace Sys2Proof.Machine

/-! ### The pattern of a digit (41_digit_encoder.md R101, R102) -/

/-- A digit 0 to 9 is an index into `ENC_TABLE`. -/
theorem enc_ofNat_of_lt_ten (c : Config) (k : Fin 10) :
    enc c (BitVec.ofNat 4 k) = c.encTable[k] := by
  have hk : (BitVec.ofNat 4 k).toNat = k := by rw [BitVec.toNat_ofNat]; omega
  simp [enc, hk]

/-- A digit 10 to 15 is an index into `ENC_HI`, counted from 10. -/
theorem enc_ofNat_ten_add (c : Config) (k : Fin 6) :
    enc c (BitVec.ofNat 4 (10 + k)) = c.encHi[k] := by
  have hk : (BitVec.ofNat 4 (10 + k)).toNat = 10 + k := by rw [BitVec.toNat_ofNat]; omega
  simp [enc, hk]

/-! ### ENCODE -/

/-- ENCODE writes the zero-extended pattern of its digit into `res`, and nothing else (R100). -/
theorem exec_encode {s : State} (hc : s.cfg.wellFormed = true) (hb : s.r.booted = true)
    (d : BitVec 4) : exec (.encode d) s =
      .next { s with r := { s.r with res := BitVec.ofNat 32 (enc s.cfg d).toNat } } := by
  rw [BitVec.ofNat_toNat]
  exact exec_of_booted hc hb

/-- The word of ENCODE is its class and the digit (30_encoding.md R81). -/
theorem encode_digit_eq (d : BitVec 4) :
    encode (.encode d) = BitVec.ofNat 16 (0x1000 + d.toNat) := by
  have hd := d.isLt
  apply BitVec.eq_of_toNat_eq
  simp only [encode, toNat_append_eq, BitVec.toNat_ofNat]
  omega

end Sys2Proof.Machine

open Sys2Proof Sys2Proof.Machine

/-- Settles O18: ENCODE writes `ENC` of its digit, and each digit is an index into one of the two tables. -/
theorem encodeShowsPattern : Obligations.EncodeShowsPattern := by
  intro s hc hb
  refine ⟨fun k => ?_, fun k => ?_, fun k => ?_⟩
  · rw [exec_encode hc hb, enc_ofNat_of_lt_ten]
  · rw [exec_encode hc hb, enc_ofNat_ten_add]
  · rw [encode_digit_eq, BitVec.toNat_ofNat, Nat.mod_eq_of_lt k.isLt]

/-- Settles O19: BLANK, once booted, is admitted and writes `BLANK_PAT`. -/
theorem blankShowsAllOff : Obligations.BlankShowsAllOff :=
  fun _ hc hb => ⟨exec_of_booted hc hb, rfl⟩
end

section
/-! PROOF. The time register: ADVANCE (O20) and its counting law (O21), SETF (O22) and DECOMP (O23). -/

namespace Sys2Proof.Machine

variable {s : State}

/-! ### What ADVANCE does to each unit, as a number (42_time_register.md R120) -/

/-- ADVANCE, once booted, is admitted. -/
theorem exec_advance (hc : s.cfg.wellFormed = true) (hb : s.r.booted = true) :
    exec .advance s = .next (advance s) :=
  exec_of_booted hc hb

@[simp] theorem advance_cfg (s : State) : (advance s).cfg = s.cfg := (advance_shell s).cfg

theorem toNat_advance_sec (hc : s.cfg.wellFormed = true) :
    (advance s).r.sec.toNat = if s.r.sec.toNat + 1 < 60 then s.r.sec.toNat + 1 else 0 := by
  rw [advance_eq, Config.smod_eq hc]
  dsimp only
  split_ifs with h
  · rw [BitVec.toNat_ofNat, Nat.mod_eq_of_lt (by omega)]
  · rfl

theorem toNat_advance_min (hc : s.cfg.wellFormed = true) :
    (advance s).r.min.toNat =
      if s.r.sec.toNat + 1 < 60 then s.r.min.toNat
      else if s.r.min.toNat + 1 < 60 then s.r.min.toNat + 1 else 0 := by
  rw [advance_eq, Config.smod_eq hc, Config.mmod_eq hc]
  dsimp only
  split_ifs with _ h
  · rfl
  · rw [BitVec.toNat_ofNat, Nat.mod_eq_of_lt (by omega)]
  · rfl

theorem toNat_advance_hr (hc : s.cfg.wellFormed = true) :
    (advance s).r.hr.toNat =
      if s.r.sec.toNat + 1 < 60 ∨ s.r.min.toNat + 1 < 60 ∨ s.cfg.variant = .ms then s.r.hr.toNat
      else (s.r.hr.toNat + 1) % s.cfg.hmod := by
  have hfits : (s.r.hr.toNat + 1) % s.cfg.hmod < 2 ^ 7 := by
    rcases Config.hmod_cases hc with h | h <;> rw [h] <;> omega
  rw [advance_eq, Config.smod_eq hc, Config.mmod_eq hc]
  dsimp only
  split_ifs
  · rfl
  · rw [BitVec.toNat_ofNat, Nat.mod_eq_of_lt hfits]

/-! ### The time as a number (R121) -/

/-- ADVANCE keeps the time within the moduli (10_state.md R29). -/
theorem TimeInRange.advance (hc : s.cfg.wellFormed = true) (ht : TimeInRange s) :
    TimeInRange (advance s) where
  sec := by
    rw [toNat_advance_sec hc]
    split <;> omega
  min := by
    have hmin := ht.min
    rw [toNat_advance_min hc]
    split_ifs <;> omega
  hms hv := by
    rw [advance_cfg] at hv ⊢
    have hhr := ht.hms hv
    rw [toNat_advance_hr hc]
    split
    · exact hhr
    · exact Nat.mod_lt _ (by omega)
  ms hv := by
    rw [advance_cfg] at hv
    apply BitVec.eq_of_toNat_eq
    rw [toNat_advance_hr hc, if_pos (.inr (.inr hv)), ht.ms hv]

theorem timePeriod_hms {c : Config} (hv : c.variant = .hms) : timePeriod c = 3600 * c.hmod := by
  simp [timePeriod, hv]

theorem timePeriod_ms {c : Config} (hv : c.variant = .ms) : timePeriod c = 3600 := by
  simp [timePeriod, hv]

/-- The time is less than the period. -/
theorem TimeInRange.timeNumber_lt (ht : TimeInRange s) : timeNumber s < timePeriod s.cfg := by
  have hsec := ht.sec
  have hmin := ht.min
  rw [timeNumber]
  cases hv : s.cfg.variant with
  | hms =>
    have hhr := ht.hms hv
    rw [timePeriod_hms hv]
    omega
  | ms =>
    have hhr : s.r.hr.toNat = 0 := by rw [ht.ms hv]; rfl
    rw [timePeriod_ms hv]
    omega

/-- One ADVANCE adds one, modulo the period. -/
theorem timeNumber_advance (hc : s.cfg.wellFormed = true) (ht : TimeInRange s) :
    timeNumber (advance s) = (timeNumber s + 1) % timePeriod s.cfg := by
  have hsec := ht.sec
  have hmin := ht.min
  rw [timeNumber, timeNumber, toNat_advance_sec hc, toNat_advance_min hc, toNat_advance_hr hc]
  cases hv : s.cfg.variant with
  | hms =>
    have hhr := ht.hms hv
    simp only [timePeriod_hms hv, reduceCtorEq, or_false]
    rcases Config.hmod_cases hc with h | h <;> rw [h] at hhr ⊢ <;> split_ifs <;> omega
  | ms =>
    have hhr : s.r.hr.toNat = 0 := by rw [ht.ms hv]; rfl
    rw [timePeriod_ms hv, if_pos (.inr (.inr rfl)), hhr]
    split_ifs <;> omega

/-- The hour is the number of whole hours in the time. -/
theorem TimeInRange.toNat_hr_eq (ht : TimeInRange s) : s.r.hr.toNat = timeNumber s / 3600 := by
  have hsec := ht.sec
  have hmin := ht.min
  rw [timeNumber]
  omega

/-! ### Several ADVANCEs -/

theorem TimeInRange.advanceTimes (n : Nat) : ∀ {s : State}, s.cfg.wellFormed = true →
    TimeInRange s → TimeInRange (advanceTimes n s) := by
  induction n with
  | zero => exact fun _ ht => ht
  | succ n ih => exact fun hc ht => ih (by simpa using hc) (ht.advance hc)

/-- `n` ADVANCEs add `n`, modulo the period. -/
theorem timeNumber_advanceTimes (n : Nat) : ∀ {s : State}, s.cfg.wellFormed = true →
    TimeInRange s → timeNumber (advanceTimes n s) = (timeNumber s + n) % timePeriod s.cfg := by
  induction n with
  | zero => exact fun _ ht => (Nat.mod_eq_of_lt ht.timeNumber_lt).symm
  | succ n ih =>
    intro s hc ht
    rw [Machine.advanceTimes, ih (by simpa using hc) (ht.advance hc), timeNumber_advance hc ht,
      advance_cfg, Nat.mod_add_mod, Nat.add_assoc, Nat.add_comm 1]

/-- 3600 ADVANCEs go on to the next hour. -/
theorem toNat_hr_advanceTimes_hour (hc : s.cfg.wellFormed = true) (ht : TimeInRange s)
    (hv : s.cfg.variant = .hms) :
    (advanceTimes 3600 s).r.hr.toNat = (s.r.hr.toNat + 1) % s.cfg.hmod := by
  rw [(ht.advanceTimes 3600 hc).toNat_hr_eq, timeNumber_advanceTimes 3600 hc ht, timePeriod_hms hv,
    Nat.mod_mul_right_div_self, Nat.add_div_right _ (by decide), ht.toNat_hr_eq]

/-- A row of ADVANCE commands, once booted, is so many advances. -/
theorem execAll_replicate_advance (n : Nat) : ∀ {s : State}, s.cfg.wellFormed = true →
    s.r.booted = true → execAll (List.replicate n .advance) s = .next (advanceTimes n s) := by
  induction n with
  | zero => exact fun _ _ => rfl
  | succ n ih =>
    intro s hc hb
    rw [List.replicate_succ, execAll_cons (exec_advance hc hb)]
    exact ih (by simpa using hc) ((advance_shell s).booted.trans hb)

/-! ### How often a unit changes -/

/-- A register that ADVANCE changes exactly where the time reaches a multiple of `m`, for an `m` that
divides the period, changes in `n` ADVANCEs once for each multiple reached. -/
theorem changes_eq_div {α : Type} [DecidableEq α] {f : State → α} {c : Config} {m : Nat}
    (hc : c.wellFormed = true) (hm : 0 < m) (hdvd : m ∣ timePeriod c)
    (hf : ∀ u : State, u.cfg = c → TimeInRange u →
      (f (advance u) = f u ↔ timeNumber u % m + 1 ≠ m)) (n : Nat) :
    ∀ s : State, s.cfg = c → TimeInRange s → changes f n s = (timeNumber s % m + n) / m := by
  induction n with
  | zero => exact fun s _ _ => (Nat.div_eq_of_lt (Nat.mod_lt _ hm)).symm
  | succ n ih =>
    intro s hs ht
    subst hs
    have hlt := Nat.mod_lt (timeNumber s) hm
    rw [changes, ih _ (advance_cfg s) (ht.advance hc), timeNumber_advance hc ht,
      Nat.mod_mod_of_dvd _ hdvd, ← Nat.mod_add_mod]
    by_cases hgo : timeNumber s % m + 1 = m
    · have hsum : timeNumber s % m + (n + 1) = n + m := by omega
      rw [if_neg (by simpa [hf s rfl ht] using hgo), hgo, Nat.mod_self, hsum, Nat.add_div_right _ hm,
        Nat.zero_add, Nat.add_comm]
    · rw [if_pos ((hf s rfl ht).2 hgo), Nat.mod_eq_of_lt (by omega), Nat.zero_add, Nat.add_right_comm,
        Nat.add_assoc]

/-- A period is a whole number of hours. -/
theorem hour_dvd_timePeriod (c : Config) : 3600 ∣ timePeriod c := by
  cases hv : c.variant with
  | hms => exact timePeriod_hms hv ▸ Nat.dvd_mul_right 3600 c.hmod
  | ms => exact timePeriod_ms hv ▸ dvd_rfl

/-- ADVANCE changes the minute exactly in its last second. -/
theorem advance_min_eq_iff (hc : s.cfg.wellFormed = true) (ht : TimeInRange s) :
    (advance s).r.min = s.r.min ↔ timeNumber s % 60 + 1 ≠ 60 := by
  have hsec := ht.sec
  have hmin := ht.min
  rw [← BitVec.toNat_inj, toNat_advance_min hc, timeNumber]
  split_ifs <;> omega

/-- ADVANCE changes the hour exactly in its last second. -/
theorem advance_hr_eq_iff (hc : s.cfg.wellFormed = true) (ht : TimeInRange s)
    (hv : s.cfg.variant = .hms) :
    (advance s).r.hr = s.r.hr ↔ timeNumber s % 3600 + 1 ≠ 3600 := by
  have hsec := ht.sec
  have hmin := ht.min
  have hhr := ht.hms hv
  have hnext : (s.r.hr.toNat + 1) % s.cfg.hmod ≠ s.r.hr.toNat := by
    rcases Config.hmod_cases hc with h | h <;> rw [h] at hhr ⊢ <;> omega
  rw [← BitVec.toNat_inj, toNat_advance_hr hc, timeNumber]
  simp only [hv, reduceCtorEq, or_false]
  split_ifs <;> omega

/-- 60 ADVANCEs change the minute once. -/
theorem changes_min_minute (hc : s.cfg.wellFormed = true) (ht : TimeInRange s) :
    changes (fun u => u.r.min) 60 s = 1 := by
  have hdvd : 60 ∣ timePeriod s.cfg := dvd_trans (by decide) (hour_dvd_timePeriod s.cfg)
  rw [changes_eq_div hc (by decide) hdvd (fun u hu => advance_min_eq_iff (hu ▸ hc)) 60 s rfl ht]
  omega

/-- 3600 ADVANCEs change the hour once. -/
theorem changes_hr_hour (hc : s.cfg.wellFormed = true) (ht : TimeInRange s)
    (hv : s.cfg.variant = .hms) : changes (fun u => u.r.hr) 3600 s = 1 := by
  rw [changes_eq_div hc (by decide) (hour_dvd_timePeriod s.cfg)
    (fun u hu hrange => advance_hr_eq_iff (hu ▸ hc) hrange (hu ▸ hv)) 3600 s rfl ht]
  omega

/-! ### SETF (R122) -/

/-- The word of SETF is its class, the selector and the raw value (30_encoding.md R81). -/
theorem toNat_encode_setf (sel : BitVec 2) (raw : Byte) :
    (encode (.setf sel raw)).toNat = 0x4000 + sel.toNat * 256 + raw.toNat := by
  simp only [encode, toNat_append_eq, BitVec.toNat_ofNat]
  omega

/-! ### The digits of the time (R124) -/

/-- The digits are the decimal digits of the units, for every value the registers can hold. -/
theorem map_toNat_timeDigits (r : Block) : (timeDigits r).map BitVec.toNat =
    [r.sec.toNat % 10, r.sec.toNat / 10, r.min.toNat % 10, r.min.toNat / 10, r.hr.toNat % 10,
      r.hr.toNat / 10] := by
  have hsec := r.sec.isLt
  have hmin := r.min.isLt
  have hhr := r.hr.isLt
  simp only [timeDigits, List.map_cons, List.map_nil, toNat_ones,
    toNat_tens (show r.sec.toNat < 160 by omega), toNat_tens (show r.min.toNat < 160 by omega),
    toNat_tens (show r.hr.toNat < 160 by omega)]

theorem map_toNat_decompose (s : State) : (decompose s).map BitVec.toNat =
    [s.r.sec.toNat % 10, s.r.sec.toNat / 10, s.r.min.toNat % 10, s.r.min.toNat / 10,
      s.r.hr.toNat % 10, s.r.hr.toNat / 10].take (digitCount s.cfg.variant) := by
  rw [decompose, List.map_take, map_toNat_timeDigits]

/-- The result of DECOMP is the digit count over the packed view of the time. -/
theorem toNat_decompResult (s : State) : (decompResult s).toNat =
    digitCount s.cfg.variant * 16777216 + (s.r.hr.toNat / 10) * 1048576 +
      (s.r.hr.toNat % 10) * 65536 + (s.r.min.toNat / 10) * 4096 + (s.r.min.toNat % 10) * 256 +
      (s.r.sec.toNat / 10) * 16 + s.r.sec.toNat % 10 := by
  have hcount : (BitVec.ofNat 8 (digitCount s.cfg.variant)).toNat = digitCount s.cfg.variant := by
    cases s.cfg.variant <;> rfl
  rw [decompResult, toNat_append_eq, hcount, toNat_timePacked]
  omega

/-- The hours stay below `HMOD` in both variants: in the two-unit one they are 0. -/
theorem TimeInRange.toNat_hr_lt (ht : TimeInRange s) (hc : s.cfg.wellFormed = true) :
    s.r.hr.toNat < s.cfg.hmod := by
  cases hv : s.cfg.variant with
  | hms => exact ht.hms hv
  | ms =>
    rw [ht.ms hv]
    rcases Config.hmod_cases hc with h | h <;> rw [h] <;> decide

/-- With the time in range every digit is a decimal digit. -/
theorem TimeInRange.decompose_le_nine (ht : TimeInRange s) (hc : s.cfg.wellFormed = true) :
    ∀ d ∈ decompose s, d.toNat ≤ 9 := by
  intro d hd
  have hsec := ht.sec
  have hmin := ht.min
  have hhr := ht.toNat_hr_lt hc
  have hhmod := Config.hmod_cases hc
  have hmem : d.toNat ∈ (timeDigits s.r).map BitVec.toNat :=
    List.mem_map_of_mem (List.mem_of_mem_take hd)
  simp only [map_toNat_timeDigits, List.mem_cons, List.not_mem_nil, or_false] at hmem
  omega

end Sys2Proof.Machine

open Sys2Proof Sys2Proof.Machine

/-- Settles O21: `n` ADVANCEs count `n` on, and a unit changes once for each multiple of its length that
the time reaches. -/
theorem advanceCountingLaw : Obligations.AdvanceCountingLaw := by
  intro s hc hb ht
  refine ⟨fun n => ?_, changes_min_minute hc ht, fun hv => ⟨changes_hr_hour hc ht hv, ?_⟩⟩
  · exact ⟨_, execAll_replicate_advance n hc hb, timeNumber_advanceTimes n hc ht,
      ht.advanceTimes n hc⟩
  · exact ⟨_, execAll_replicate_advance 3600 hc hb, toNat_hr_advanceTimes_hour hc ht hv⟩

/-- Settles O20: ADVANCE as one register update, with both moduli 60. -/
theorem advanceCascades : Obligations.AdvanceCascades := by
  refine ⟨rfl, fun s hc hb => ?_⟩
  rw [exec_advance hc hb, advance_eq, Config.smod_eq hc, Config.mmod_eq hc]

/-- Settles O22: SETF as one register update, the selector read as a number. -/
theorem setfWritesOneUnit : Obligations.SetfWritesOneUnit := by
  refine ⟨toNat_encode_setf, fun s sel raw hc hb => ?_⟩
  have hexec : exec (.setf sel raw) s = .next (setField sel.toNat raw.toNat s) := exec_of_booted hc hb
  rw [hexec, setField_eq, Config.smod_eq hc, Config.mmod_eq hc]
  simp [BitVec.toNat_eq_nat]

/-- Settles O23: DECOMP writes the digit count and the packed view of the time, whose nibbles are the
decimal digits of the units. -/
theorem decompShowsDigits : Obligations.DecompShowsDigits := by
  refine ⟨rfl, fun s hc hb => ⟨_, exec_of_booted hc hb, rfl, toNat_decompResult s,
    map_toNat_decompose s, ⟨by omega, by omega, by omega⟩, fun ht => ?_⟩⟩
  have hsec := ht.sec
  have hmin := ht.min
  have hhr := ht.toNat_hr_lt hc
  refine ⟨ht.decompose_le_nine hc, by omega, by omega, fun h => by omega, fun hv => ?_⟩
  rw [ht.ms hv]
  rfl
end

section
/-! PROOF. The rate divider: TICK (O25), its counting law (O26), and the clock it drives in the interrupt
mode (O55) and in the polling mode (O56). -/

namespace Sys2Proof.Machine

variable {s t u : State}

/-! ### A period of commands, repeated -/

/-- Commands that run to a next state hand it to the rest. -/
theorem execAll_append {is js : List Instr} : ∀ {s : State}, execAll is s = .next t →
    execAll (is ++ js) s = execAll js t := by
  induction is with
  | nil =>
    intro s h
    cases h
    rfl
  | cons i is ih =>
    intro s h
    rw [execAll] at h
    cases hi : exec i s with
    | next u =>
      rw [hi] at h
      rw [List.cons_append, execAll_cons hi]
      exact ih h
    | fault f => simp [hi] at h
    | refused q => simp [hi] at h

/-- What a period of commands keeps while it counts itself holds after every number of periods. -/
theorem execAll_periods {P : Nat → State → Prop} {period : List Instr}
    (hperiod : ∀ k t, P k t → ∃ u, execAll period t = .next u ∧ P (k + 1) u) (n : Nat) :
    ∀ {k : Nat} {t : State}, P k t →
      ∃ u, execAll (List.replicate n period).flatten t = .next u ∧ P (k + n) u := by
  induction n with
  | zero => exact fun ht => ⟨_, rfl, ht⟩
  | succ n ih =>
    intro k t ht
    obtain ⟨u, hu, hPu⟩ := hperiod k t ht
    obtain ⟨v, hv, hPv⟩ := ih hPu
    refine ⟨v, ?_, by rwa [Nat.add_right_comm] at hPv⟩
    rw [List.replicate_succ, List.flatten_cons, execAll_append hu, hv]

/-! ### The counter (43_rate_divider.md R140) -/

/-- TICK, once booted, writes the counter and the wrap result, and nothing else. -/
theorem exec_tick (hc : s.cfg.wellFormed = true) (hb : s.r.booted = true) :
    exec .tick s = .next { s with
      r := { s.r with
        tick :=
          if s.r.tick.toNat + 1 = s.cfg.divisor then 0#4 else BitVec.ofNat 4 (s.r.tick.toNat + 1)
        res := if s.r.tick.toNat + 1 = s.cfg.divisor then 1#32 else 0#32 } } := by
  rw [exec_of_booted hc hb, effect, tick_fst, tick_snd, wraps, beq_eq_decide]
  by_cases h : s.r.tick.toNat + 1 = s.cfg.divisor <;> simp [h, State.setTick, State.setRes]

/-- A counter in range wraps exactly when its next value is 0 modulo `DIVISOR`. -/
theorem succ_eq_iff_mod_eq_zero {c d : Nat} (h : c < d) : c + 1 = d ↔ (c + 1) % d = 0 := by
  constructor
  · rintro rfl
    exact Nat.mod_self _
  · intro hz
    exact Nat.le_antisymm h (Nat.le_of_dvd c.succ_pos (Nat.dvd_of_mod_eq_zero hz))

/-- The next value of a counter in range, as a number. -/
theorem toNat_next_tick {c : Config} {x : Nat} (hc : c.wellFormed = true) (hx : x < c.divisor) :
    (if x + 1 = c.divisor then 0#4 else BitVec.ofNat 4 (x + 1)).toNat = (x + 1) % c.divisor := by
  have hd := Config.divisor_range hc
  split_ifs with h
  · rw [h, Nat.mod_self]
    rfl
  · rw [BitVec.toNat_ofNat, Nat.mod_eq_of_lt (by omega), Nat.mod_eq_of_lt (by omega)]

/-- The divider has counted `n` ticks from `s` to `t`, and the shell is kept (R143). -/
structure Divided (s : State) (n : Nat) (t : State) : Prop where
  shell : SameShell s t
  tick  : t.r.tick.toNat = (s.r.tick.toNat + n) % s.cfg.divisor

namespace Divided

variable {n : Nat} (h : Divided s n t)
include h

theorem next_tick :
    (t.r.tick.toNat + 1) % t.cfg.divisor = (s.r.tick.toNat + (n + 1)) % s.cfg.divisor := by
  rw [h.tick, h.shell.cfg, Nat.mod_add_mod, Nat.add_assoc]

variable (hc : s.cfg.wellFormed = true)
include hc

theorem wellFormed : t.cfg.wellFormed = true := h.shell.cfg ▸ hc

theorem tick_lt : t.r.tick.toNat < t.cfg.divisor := by
  rw [h.tick, h.shell.cfg]
  exact Nat.mod_lt _ (Config.divisor_range hc).1

/-- The next tick wraps exactly when `DIVISOR` divides the number it counts up to. -/
theorem wraps_iff :
    t.r.tick.toNat + 1 = t.cfg.divisor ↔ (s.r.tick.toNat + (n + 1)) % s.cfg.divisor = 0 := by
  rw [succ_eq_iff_mod_eq_zero (h.tick_lt hc), h.next_tick]

end Divided

/-- `n` TICK commands lead from `s` to `t`: the counter, and the result of the last one (R143). -/
structure Ticked (s : State) (n : Nat) (t : State) : Prop extends Divided s n t where
  res : 1 ≤ n → t.r.res = if (s.r.tick.toNat + n) % s.cfg.divisor = 0 then 1#32 else 0#32

/-- One more TICK command. -/
theorem Ticked.exec_tick (hc : s.cfg.wellFormed = true) (hb : s.r.booted = true) {n : Nat}
    (h : Ticked s n t) : ∃ u, execAll [.tick] t = .next u ∧ Ticked s (n + 1) u := by
  have hd := h.toDivided
  have hct := hd.wellFormed hc
  refine ⟨_, execAll_cons (Machine.exec_tick hct (hd.shell.booted.trans hb)), ⟨?_, ?_⟩, fun _ => ?_⟩
  · exact hd.shell.trans ⟨rfl, rfl, rfl, rfl, rfl, rfl, rfl, rfl, rfl⟩
  · exact (toNat_next_tick hct (hd.tick_lt hc)).trans (hd.next_tick)
  · simp only [hd.wraps_iff hc]

/-! ### A serviced timeout as a state update (R142) -/

/-- ADVANCE neither reads nor writes the divider's counter. -/
theorem advance_setTick (s : State) (n : Nat) : advance (s.setTick n) = (advance s).setTick n := by
  rw [advance_eq, advance_eq s]
  rfl

/-- With no event inside, a tick that wraps advances the time and shows it. -/
theorem divideAndShow_wrap_quiet (hc : s.cfg.wellFormed = true) (he : s.env = [])
    (hs : SlotsSized s) (h : s.r.tick.toNat + 1 = s.cfg.divisor) :
    divideAndShow s = { advance s with
      r := { (advance s).r with tick := 0#4, slots := shownSlots (advance s) }
      trace := s.trace ++ renderAccesses (advance s) } := by
  have hn : (advance (s.setTick 0)).cfg.nslots = 6 := by
    rw [advance_cfg]
    exact Config.nslots_eq hc
  have hsized : SlotsSized (advance (s.setTick 0)) := by rw [advance_eq]; exact hs
  have hquiet : (advance (s.setTick 0)).env = [] := by rw [advance_eq]; exact he
  have htrace : (advance s).trace = s.trace := by rw [advance_eq]
  rw [divideAndShow_wrap h]
  change render (advance (s.setTick 0)) = _
  rw [render_eq hn hsized, interludes_of_no_events 6 hquiet, advance_setTick, ← htrace]
  rfl

/-- With no event inside, a serviced timeout leaves the platform, the phase and the heartbeat alone. -/
theorem divideAndShow_frame (hc : s.cfg.wellFormed = true) (he : s.env = []) (hs : SlotsSized s) :
    (divideAndShow s).p = s.p ∧ (divideAndShow s).env = s.env ∧
      (divideAndShow s).r.phase = s.r.phase ∧ (divideAndShow s).r.hb = s.r.hb := by
  by_cases h : s.r.tick.toNat + 1 = s.cfg.divisor
  · rw [divideAndShow_wrap_quiet hc he hs h, advance_eq]
    exact ⟨rfl, rfl, rfl, rfl⟩
  · rw [divideAndShow_nowrap h]
    exact ⟨rfl, rfl, rfl, rfl⟩

/-! ### The clock after a number of periods (R141, R143 with R121) -/

/-- `n` serviced timeouts lead from `s` to `t`, with no event inside: the divider has counted them, the
time has advanced once for each wrap, and from the first wrap on the display shows it. -/
structure KeepsTime (s : State) (n : Nat) (t : State) : Prop extends Divided s n t where
  quiet  : t.env = []
  range  : TimeInRange t
  sized  : SlotsSized t
  number : timeNumber t =
    (timeNumber s + (s.r.tick.toNat + n) / s.cfg.divisor) % timePeriod s.cfg
  shown  : s.cfg.divisor ≤ s.r.tick.toNat + n → t.r.slots = shownSlots t

namespace KeepsTime

variable {n : Nat}

theorem start (he : s.env = []) (ht : TimeInRange s) (hs : SlotsSized s)
    (hlt : s.r.tick.toNat < s.cfg.divisor) : KeepsTime s 0 s where
  shell := SameShell.refl s
  quiet := he
  range := ht
  sized := hs
  tick := (Nat.mod_eq_of_lt hlt).symm
  number := by
    rw [Nat.add_zero, Nat.div_eq_of_lt hlt]
    exact (Nat.mod_eq_of_lt ht.timeNumber_lt).symm
  shown h := absurd hlt (by omega)

/-- The clock is in the registers, the heartbeat left out. -/
theorem congr (h : KeepsTime s n t) (hshell : SameShell t u) (he : u.env = t.env) {b : Nat}
    (hr : u.r = { t.r with hb := b }) : KeepsTime s n u := by
  have hcfg := hshell.cfg
  have hkept := h.shell.trans hshell
  cases t
  cases u
  cases hcfg
  cases hr
  cases he
  exact ⟨⟨hkept, h.tick⟩, h.quiet, { h.range with }, h.sized, h.number, h.shown⟩

/-- A serviced timeout that wraps the divider. -/
theorem divideAndShow_wrap (hc : s.cfg.wellFormed = true) (h : KeepsTime s n t)
    (hw : t.r.tick.toNat + 1 = t.cfg.divisor) : KeepsTime s (n + 1) (divideAndShow t) := by
  have hct := h.wellFormed hc
  have hzero := (h.wraps_iff hc).1 hw
  have hshell := h.shell.trans (divideAndShow_shell t)
  have hquiet := (divideAndShow_frame hct h.quiet h.sized).2.1.trans h.quiet
  have hrange := h.range.advance hct
  rw [divideAndShow_wrap_quiet hct h.quiet h.sized hw] at hshell hquiet ⊢
  refine ⟨⟨hshell, hzero.symm⟩, hquiet, { hrange with }, ?_, ?_, fun _ => rfl⟩
  · exact (Config.nslots_eq (hshell.cfg ▸ hc)).symm
  · calc timeNumber (advance t)
      _ = (timeNumber t + 1) % timePeriod t.cfg := timeNumber_advance hct h.range
      _ = (timeNumber s + ((s.r.tick.toNat + n) / s.cfg.divisor + 1)) % timePeriod s.cfg := by
        rw [h.number, h.shell.cfg, Nat.mod_add_mod, Nat.add_assoc]
      _ = (timeNumber s + (s.r.tick.toNat + (n + 1)) / s.cfg.divisor) % timePeriod s.cfg := by
        rw [← Nat.add_assoc s.r.tick.toNat,
          Nat.succ_div_of_mod_eq_zero (a := s.r.tick.toNat + n) hzero]

/-- A serviced timeout that only counts. -/
theorem divideAndShow_nowrap (hc : s.cfg.wellFormed = true) (h : KeepsTime s n t)
    (hw : t.r.tick.toNat + 1 ≠ t.cfg.divisor) : KeepsTime s (n + 1) (divideAndShow t) := by
  have hnz := mt (h.wraps_iff hc).2 hw
  have hshell := h.shell.trans (divideAndShow_shell t)
  have htick := toNat_next_tick (h.wellFormed hc) (h.tick_lt hc)
  rw [if_neg hw, h.next_tick] at htick
  rw [Machine.divideAndShow_nowrap hw] at hshell ⊢
  refine ⟨⟨hshell, htick⟩, h.quiet, { h.range with }, h.sized, ?_, fun hle => h.shown ?_⟩
  · rw [← Nat.add_assoc, Nat.succ_div_of_mod_ne_zero (a := s.r.tick.toNat + n) hnz]
    exact h.number
  · have hne : s.r.tick.toNat + (n + 1) ≠ s.cfg.divisor := fun heq => hnz (heq ▸ Nat.mod_self _)
    omega

/-- One more serviced timeout. -/
theorem divideAndShow (hc : s.cfg.wellFormed = true) (h : KeepsTime s n t) :
    KeepsTime s (n + 1) (divideAndShow t) := by
  by_cases hw : t.r.tick.toNat + 1 = t.cfg.divisor
  · exact h.divideAndShow_wrap hc hw
  · exact h.divideAndShow_nowrap hc hw

/-- A TIMEOUT sets the flag; the clock does not read it. -/
theorem timeout (h : KeepsTime s n t) :
    KeepsTime s n { t with p := { t.p with timeout := true } } :=
  h.congr ⟨rfl, rfl, rfl, rfl, rfl, rfl, rfl, rfl, rfl⟩ rfl rfl

theorem record (h : KeepsTime s n t) (a : Access) : KeepsTime s n (t.record a) :=
  h.congr ⟨rfl, rfl, rfl, rfl, rfl, rfl, rfl, rfl, rfl⟩ rfl rfl

theorem beat (h : KeepsTime s n t) : KeepsTime s n (beat t) := h.congr (beat_shell t) rfl rfl

theorem ackTimer (h : KeepsTime s n t) : KeepsTime s n (ackTimer t) :=
  h.congr (ackTimer_shell t) (by simp [Machine.ackTimer, h.quiet]) rfl

end KeepsTime

/-! ### The interrupt mode (R200, R210) -/

/-- With no event inside, the acknowledgement clears the flag and nothing else of the platform. -/
theorem ackTimer_quiet (he : s.env = []) :
    ackTimer s = { s with
      p := { s.p with timeout := false }
      trace := s.trace ++ [.ackTimer] } := by
  simp only [ackTimer, interlude_of_no_events he]
  rfl

/-- With no captured edge and no event inside, the edge channel makes its first access only (R180). -/
theorem edgeService_idle (he : s.env = []) (hcap : s.p.cap = false) :
    edgeService s = s.record (.readCap false) := by
  rw [edgeService_eq, interlude_of_no_events he, hcap]
  rfl

theorem classifyCause_timer (c : Config) : classifyCause c c.causeTimer = .timer := if_pos rfl

/-- The timer's entry: the timer path, and in SHARED the edge check after it (R210). -/
theorem dispatchCause_timer (s : State) : dispatchCause s.cfg.causeTimer s =
    if s.cfg.edgeLayout = .shared then edgeService (timerServiceIrq s) else timerServiceIrq s := by
  rw [dispatchCause, classifyCause_timer]
  cases s.cfg.edgeLayout <;> rfl

/-- The timer's entry is admitted while its request is pending (60_exceptions.md R246). -/
theorem exec_irq_timer (hc : s.cfg.wellFormed = true) (hb : s.r.booted = true)
    (hm : s.cfg.mode = .irq) (hie : s.p.ie = true) (hito : s.p.timIto = true)
    (hto : s.p.timeout = true) :
    exec (.irq s.cfg.causeTimer) s = .next (dispatchCause s.cfg.causeTimer s) := by
  have hpending : ¬ NotPending s s.cfg.causeTimer := by simp [NotPending, hto, hito]
  refine exec_admitted ?_
  rw [refusalReason_of_entryCause hc rfl (.inl hb) (by rw [hm]; rfl)]
  exact (entryRefusal_of_enabled hie).2 hpending

/-- `n` periods of the interrupt mode, with no captured edge. -/
structure IrqClock (s : State) (n : Nat) (t : State) : Prop extends KeepsTime s n t where
  cap : t.p.cap = false

namespace IrqClock

variable {n : Nat} (hc : s.cfg.wellFormed = true)
include hc

theorem timerServiceIrq (h : IrqClock s n t) : IrqClock s (n + 1) (timerServiceIrq t) := by
  have hack := h.ackTimer
  obtain ⟨hp, -, -, -⟩ := divideAndShow_frame (hack.wellFormed hc) hack.quiet hack.sized
  refine ⟨hack.divideAndShow hc, ?_⟩
  rw [Machine.timerServiceIrq, hp, ackTimer_quiet h.quiet]
  exact h.cap

theorem dispatchCause_timer (h : IrqClock s n t) :
    IrqClock s (n + 1) (dispatchCause t.cfg.causeTimer t) := by
  have hserved := h.timerServiceIrq hc
  rw [Machine.dispatchCause_timer]
  split
  · rw [edgeService_idle hserved.quiet hserved.cap]
    exact ⟨hserved.record _, hserved.cap⟩
  · exact hserved

/-- One more period: a TIMEOUT and the timer's IRQ. -/
theorem period (hb : s.r.booted = true) (hm : s.cfg.mode = .irq) (hie : s.p.ie = true)
    (hito : s.p.timIto = true) (h : IrqClock s n t) :
    ∃ u, execAll [.timeout, .irq s.cfg.causeTimer] t = .next u ∧ IrqClock s (n + 1) u := by
  have hct := h.wellFormed hc
  have hbt := h.shell.booted.trans hb
  have hpending : IrqClock s n { t with p := { t.p with timeout := true } } := ⟨h.timeout, h.cap⟩
  have hirq := exec_irq_timer (s := { t with p := { t.p with timeout := true } }) hct hbt
    (h.shell.cfg ▸ hm) (h.shell.ie.trans hie) (h.shell.timIto.trans hito) rfl
  rw [execAll_cons (exec_timeout hct hbt), ← h.shell.cfg]
  exact ⟨_, execAll_cons hirq, hpending.dispatchCause_timer hc⟩

end IrqClock

/-! ### The polling mode (R201, R212) -/

/-- With the button released and no event inside, the level channel lets control proceed (R185). -/
theorem levelService_released (he : s.env = []) (hphase : s.r.phase = .sample)
    (hbtn : s.p.btn = false) : levelService s = (true, s.record (.readBtn false)) := by
  simp [levelService, readBtn, interlude_of_no_events he, hbtn, onButton, hphase]

/-- With a timeout pending and no event inside, the polling timer path serves it (R201). -/
theorem timerServicePoll_pending (he : s.env = []) (hto : s.p.timeout = true) :
    timerServicePoll s = divideAndShow (beat (ackTimer (s.record (.readTimerStatus true)))) := by
  simp [timerServicePoll, readTimerStatus, interlude_of_no_events he, hto]

/-- A polling iteration that finds the button released and a timeout pending. -/
theorem pollIteration_pending (he : s.env = []) (hphase : s.r.phase = .sample)
    (hbtn : s.p.btn = false) (hto : s.p.timeout = true) :
    pollIteration s = divideAndShow
      (beat (ackTimer ((s.record (.readBtn false)).record (.readTimerStatus true)))) := by
  rw [pollIteration, levelService_released he hphase hbtn]
  exact timerServicePoll_pending he hto

/-- `n` periods of the polling mode, with the button released; the heartbeat counts them (R26). -/
structure PollClock (s : State) (n : Nat) (t : State) : Prop extends KeepsTime s n t where
  phase : t.r.phase = .sample
  btn   : t.p.btn = false
  hb    : t.r.hb = (s.r.hb + n) % 2 ^ s.cfg.hbW

namespace PollClock

variable {n : Nat} (hc : s.cfg.wellFormed = true)
include hc

theorem pollIteration (h : PollClock s n t) (hto : t.p.timeout = true) :
    PollClock s (n + 1) (pollIteration t) := by
  have hrec := (h.record (.readBtn false)).record (.readTimerStatus true)
  have hbeat := hrec.ackTimer.beat
  obtain ⟨hp, -, hphase, hhb⟩ := divideAndShow_frame (hbeat.wellFormed hc) hbeat.quiet hbeat.sized
  rw [pollIteration_pending h.quiet h.phase h.btn hto]
  refine ⟨hbeat.divideAndShow hc, hphase.trans h.phase, ?_, ?_⟩
  · rw [hp, ackTimer_quiet hrec.quiet]
    exact h.btn
  · rw [hhb]
    change (t.r.hb + 1) % 2 ^ t.cfg.hbW = _
    rw [h.hb, h.shell.cfg, Nat.mod_add_mod, Nat.add_assoc]

/-- One more period: a TIMEOUT and a POLL. -/
theorem period (hb : s.r.booted = true) (hm : s.cfg.mode = .poll) (h : PollClock s n t) :
    ∃ u, execAll [.timeout, .poll] t = .next u ∧ PollClock s (n + 1) u := by
  have hct := h.wellFormed hc
  have hbt := h.shell.booted.trans hb
  have hpending : PollClock s n { t with p := { t.p with timeout := true } } :=
    ⟨h.timeout, h.phase, h.btn, h.hb⟩
  have hpoll := exec_of_mode (i := .poll) (s := { t with p := { t.p with timeout := true } }) hct hbt
    (h.shell.cfg ▸ hm)
  rw [execAll_cons (exec_timeout hct hbt)]
  exact ⟨_, execAll_cons hpoll, hpending.pollIteration hc rfl⟩

end PollClock

end Sys2Proof.Machine

open Sys2Proof Sys2Proof.Machine

/-- Settles O25: TICK as one register update. -/
theorem tickDivides : Obligations.TickDivides :=
  ⟨rfl, fun _ => exec_tick⟩

/-- Settles O26: the counter after each TICK is the count modulo `DIVISOR`, and it wraps at 0. -/
theorem tickCountingLaw : Obligations.TickCountingLaw := by
  intro s k hc hb hlt hk
  have hstart : Ticked s 0 s :=
    ⟨⟨SameShell.refl s, (Nat.mod_eq_of_lt hlt).symm⟩, fun h => absurd h (by decide)⟩
  obtain ⟨t, ht, hcount⟩ := execAll_periods (fun _ _ => Ticked.exec_tick hc hb) k hstart
  rw [List.flatten_replicate_singleton] at ht
  rw [Nat.zero_add] at hcount
  exact ⟨t, ht, hcount.tick, hcount.res hk⟩

/-- Settles O55: each period is one serviced timeout, and each serviced timeout keeps the time. -/
theorem interruptClockKeepsTime : Obligations.InterruptClockKeepsTime := by
  intro s n hc hb hm hie hito hcap he ht hs hlt
  have hstart : IrqClock s 0 s := ⟨KeepsTime.start he ht hs hlt, hcap⟩
  obtain ⟨t, hrun, hclock⟩ := execAll_periods (fun _ _ => IrqClock.period hc hb hm hie hito) n hstart
  rw [Nat.zero_add] at hclock
  exact ⟨t, hrun, hclock.tick, hclock.number, hclock.shown, hclock.shell.refusals, hclock.range⟩

/-- Settles O56: each period is one serviced timeout and one beat, and each serviced timeout keeps the
time. -/
theorem pollingClockKeepsTime : Obligations.PollingClockKeepsTime := by
  intro s n hc hb hm hphase hbtn he ht hs hlt hhb
  have hstart : PollClock s 0 s :=
    ⟨KeepsTime.start he ht hs hlt, hphase, hbtn, (Nat.mod_eq_of_lt hhb).symm⟩
  obtain ⟨t, hrun, hclock⟩ := execAll_periods (fun _ _ => PollClock.period hc hb hm) n hstart
  rw [Nat.zero_add] at hclock
  exact ⟨t, hrun, hclock.tick, hclock.number, hclock.shown, hclock.hb, hclock.shell.refusals,
    hclock.range⟩
end

section
/-! PROOF. The display renderer: RENDER (O27, O28, O29) and WSLOT (O30). -/

namespace Sys2Proof.Machine

variable {s s' : State} {i : Nat}

/-! ### The slots a render shows (44_display_renderer.md R160, R164) -/

/-- Each shown slot holds the pattern of its digit. -/
theorem shownSlots_eq_map (s : State) : shownSlots s =
    (List.range 6).map fun i => some (slotPattern s.cfg (decompose s) i) := by
  apply List.ext_getElem (by simp [shownSlots])
  intro i h1 h2
  have hi : i < 6 := by simpa using h2
  simp [shownSlots, slotPattern_decompose s i hi]

theorem getElem?_shownSlots (s : State) (hi : i < 6) :
    (shownSlots s)[i]? = some (some (slotPattern s.cfg (decompose s) i)) := by
  simp [shownSlots_eq_map, hi]

theorem length_shownSlots (s : State) : (shownSlots s).length = 6 := by
  simp [shownSlots]

/-- The shown slots depend on the configuration and the units only (R161). -/
theorem shownSlots_congr (hcfg : s'.cfg = s.cfg) (hsec : s'.r.sec = s.r.sec)
    (hmin : s'.r.min = s.r.min) (hhr : s'.r.hr = s.r.hr) : shownSlots s' = shownSlots s := by
  simp only [shownSlots, shownPatterns, hcfg, hsec, hmin, hhr]

/-! ### A digit 0 to 9 is looked up in `ENC_TABLE` (R162) -/

theorem enc_of_le_nine (c : Config) {d : BitVec 4} (hd : d.toNat ≤ 9) :
    enc c d = c.encTable[d.toNat] := by
  simpa using enc_ofNat_of_lt_ten c ⟨d.toNat, Nat.lt_succ_of_le hd⟩

theorem length_decompose (s : State) : (decompose s).length = digitCount s.cfg.variant := by
  cases hv : s.cfg.variant <;> simp [decompose, timeDigits, digitCount, hv]

/-- A slot below the digit count shows the pattern of a digit. -/
theorem slotPattern_of_digit (c : Config) (hi : i < digitCount s.cfg.variant) :
    ∃ d ∈ decompose s, slotPattern c (decompose s) i = enc c d := by
  have hlen : i < (decompose s).length := by rwa [length_decompose]
  exact ⟨(decompose s)[i], List.getElem_mem hlen, by simp [slotPattern, hlen]⟩

/-- A slot from the digit count on is blank. -/
theorem slotPattern_of_no_digit (c : Config) (hi : digitCount s.cfg.variant ≤ i) :
    slotPattern c (decompose s) i = 0xFF#8 := by
  have hlen : (decompose s).length ≤ i := by rwa [length_decompose]
  simp [slotPattern, hlen, blankPat]

/-- With the time in range, a slot below the digit count shows an entry of `ENC_TABLE`. -/
theorem TimeInRange.slotPattern_mem_encTable (ht : TimeInRange s) (hc : s.cfg.wellFormed = true)
    (hi : i < digitCount s.cfg.variant) :
    ∃ k : Fin 10, slotPattern s.cfg (decompose s) i = s.cfg.encTable[k] := by
  obtain ⟨d, hmem, hpat⟩ := slotPattern_of_digit s.cfg hi
  have hd := ht.decompose_le_nine hc d hmem
  exact ⟨⟨d.toNat, Nat.lt_succ_of_le hd⟩, hpat.trans (enc_of_le_nine s.cfg hd)⟩

/-- The pattern of a slot does not depend on `ENC_HI` where the digits are decimal. -/
theorem slotPattern_withEncHi (c : Config) (table : Vector Byte 6) {digits : List (BitVec 4)}
    (hdigits : ∀ d ∈ digits, d.toNat ≤ 9) (i : Nat) :
    slotPattern { c with encHi := table } digits i = slotPattern c digits i := by
  unfold slotPattern
  cases hd : digits[i]? with
  | none => rfl
  | some d =>
    have hle := hdigits d (List.mem_of_getElem? hd)
    exact (enc_of_le_nine _ hle).trans (enc_of_le_nine c hle).symm

/-- With the time in range, the shown slots do not depend on `ENC_HI`. -/
theorem TimeInRange.shownSlots_withEncHi (ht : TimeInRange s) (hc : s.cfg.wellFormed = true)
    (table : Vector Byte 6) :
    shownSlots { s with cfg := { s.cfg with encHi := table } } = shownSlots s := by
  rw [shownSlots_eq_map, shownSlots_eq_map]
  exact List.map_congr_left fun i _ =>
    congrArg some (slotPattern_withEncHi s.cfg table (ht.decompose_le_nine hc) i)

/-! ### RENDER and WSLOT -/

/-- RENDER, once booted, is six turns of the environment and six display writes (R160). -/
theorem exec_render (hc : s.cfg.wellFormed = true) (hb : s.r.booted = true) (hs : SlotsSized s) :
    exec .render s = .next { interludes 6 s with
      r := { s.r with slots := shownSlots s }
      trace := s.trace ++ renderAccesses s } := by
  rw [exec_of_booted hc hb, effect, render_eq (Config.nslots_eq hc) hs]

/-- RENDER writes the slots and no other register (R160). -/
theorem exec_render_r (hc : s.cfg.wellFormed = true) (hb : s.r.booted = true) (hs : SlotsSized s) :
    ∃ t, exec .render s = .next t ∧ t.r = { s.r with slots := shownSlots s } :=
  ⟨_, exec_render hc hb hs, rfl⟩

/-- The word of WSLOT is its class, the index and the pattern (30_encoding.md R81). -/
theorem toNat_encode_wslot (idx : BitVec 4) (pat : Byte) :
    (encode (.wslot idx pat)).toNat = 0x8000 + idx.toNat * 256 + pat.toNat := by
  simp only [encode, toNat_append_eq, BitVec.toNat_ofNat]
  omega

/-- WSLOT, once booted, is one display write (R163). -/
theorem exec_wslot (hc : s.cfg.wellFormed = true) (hb : s.r.booted = true) (idx : BitVec 4)
    (pat : Byte) : exec (.wslot idx pat) s = .next (slotWrite idx pat s) :=
  exec_of_booted hc hb

end Sys2Proof.Machine

open Sys2Proof Sys2Proof.Machine

/-- Settles O27: RENDER as one update. -/
theorem renderShowsTime : Obligations.RenderShowsTime :=
  ⟨rfl, fun _ => exec_render⟩

/-- Settles O28: a render leaves the configuration and the units, which are all that the shown slots depend
on. -/
theorem renderIsIdempotent : Obligations.RenderIsIdempotent := by
  constructor
  · intro s t hc hb hs h
    obtain ⟨t₀, h₀, hr⟩ := exec_render_r hc hb hs
    obtain rfl : t₀ = t := Host.Outcome.next.inj (h₀.symm.trans h)
    obtain ⟨hcfg, -⟩ := exec_keeps_cfg_commands h
    have hsized : SlotsSized t₀ := by
      rw [SlotsSized, hr, hcfg, Config.nslots_eq hc]
      exact length_shownSlots s
    have hsame : shownSlots t₀ = shownSlots s :=
      shownSlots_congr hcfg (by rw [hr]) (by rw [hr]) (by rw [hr])
    obtain ⟨u, hu, hur⟩ := exec_render_r (hcfg ▸ hc) (by rw [hr]; exact hb) hsized
    exact ⟨u, hu, by rw [hur, hsame, hr]⟩
  · intro s s' t t' hc hb hb' hs hs' hcfg hsec hmin hhr h h'
    rw [slots_of_render hc hb hs h, slots_of_render (hcfg ▸ hc) hb' hs' h']
    exact shownSlots_congr hcfg hsec hmin hhr

/-- Settles O29: below the digit count each slot shows a decimal digit, whose pattern is an entry of
`ENC_TABLE` whatever `ENC_HI` is. -/
theorem renderUsesDigitTableOnly : Obligations.RenderUsesDigitTableOnly := by
  intro s hc hb ht hs n
  have hn : n = digitCount s.cfg.variant := rfl
  have hn6 : n ≤ 6 := by rw [hn]; cases s.cfg.variant <;> decide
  obtain ⟨t, hrender, hr⟩ := exec_render_r hc hb hs
  refine ⟨t, hrender, fun i hi => ?_, fun i hni hi => ?_, fun table => ?_⟩
  · obtain ⟨k, hk⟩ := ht.slotPattern_mem_encTable hc (hn ▸ hi)
    exact ⟨k, by rw [hr, getElem?_shownSlots s (hi.trans_le hn6), hk]⟩
  · rw [hr, getElem?_shownSlots s hi, slotPattern_of_no_digit s.cfg (hn ▸ hni)]
  · obtain ⟨u, hu, hur⟩ :=
      exec_render_r (s := { s with cfg := { s.cfg with encHi := table } }) hc hb hs
    exact ⟨u, hu, by rw [hur, hr, ht.shownSlots_withEncHi hc table]⟩

/-- Settles O30: a display write of an index that names a slot writes that slot, and of 6 or more none. -/
theorem wslotWritesOneSlot : Obligations.WslotWritesOneSlot := by
  refine ⟨toNat_encode_wslot, fun s idx pat hc hb hs => ⟨_, exec_wslot hc hb idx pat, rfl, ?_, ?_⟩⟩
  · exact (length_writeSlot _ _ idx pat).trans (hs.trans (Config.nslots_eq hc))
  · intro j hj
    have hn := Config.nslots_eq hc
    have hlen : j < s.r.slots.length := by rw [hs, hn]; exact hj
    refine (getElem?_writeSlot s.cfg.nslots s.r.slots idx pat j).trans ?_
    simp [hn, hj, hlen]
end

section
/-! PROOF. The input edge detector: EDGESVC (O32, O33), and LEVELSVC with the spin of the polling
iteration (O34, O35). -/

namespace Sys2Proof.Machine

variable {s t : State}

/-! ### The edge channel (45_input_edge_detector.md R180) -/

/-- The state in which the level of the line is sampled: three turns of the environment, and the capture
bit cleared in the second (R181). -/
def atLevelSample (s : State) : State :=
  let b := interlude (interlude s)
  interlude { b with p := { b.p with cap := false } }

/-- With the capture bit clear, the capture read is the only access. -/
theorem edgeService_of_cap_clear (h : (interlude s).p.cap = false) :
    edgeService s = { interlude s with trace := s.trace ++ [.readCap false] } := by
  rw [edgeService_eq, h]
  rfl

/-- With the capture bit set, it is acknowledged, and the channel acts on the level sampled next. -/
theorem edgeService_of_cap_set (h : (interlude s).p.cap = true) :
    edgeService s = latchAndAdvance (atLevelSample s).p.line { atLevelSample s with
      trace := s.trace ++ [.readCap true, .ackCap true, .readLine (atLevelSample s).p.line] } := by
  rw [edgeService_eq, h, if_pos rfl, serviceEdge_eq]
  simp [interlude, atLevelSample]

/-- The capture bit set and the line inactive: the latch is updated, and nothing advances. -/
theorem edgeService_of_inactive (hcap : (interlude s).p.cap = true)
    (hline : (atLevelSample s).p.line = false) :
    edgeService s = { atLevelSample s with
      r := { s.r with latchLevel := false }
      trace := s.trace ++ [.readCap true, .ackCap true, .readLine false] } := by
  rw [edgeService_of_cap_set hcap, hline]
  rfl

/-- The capture bit set and the line active: `EDGE_ADV` advances and one render. -/
theorem edgeService_of_active (hcap : (interlude s).p.cap = true)
    (hline : (atLevelSample s).p.line = true) :
    edgeService s = render (advanceTimes s.cfg.edgeAdv { atLevelSample s with
      r := { s.r with latchLevel := true }
      trace := s.trace ++ [.readCap true, .ackCap true, .readLine true] }) := by
  rw [edgeService_of_cap_set hcap, hline]
  rfl

/-- EDGESVC executes once booted in the interrupt mode. -/
theorem exec_edgesvc (hc : s.cfg.wellFormed = true) (hb : s.r.booted = true)
    (hm : s.cfg.mode = .irq) : exec .edgesvc s = .next (edgeService s) :=
  exec_of_mode hc hb hm

/-! ### What the call counts of R184 rest on -/

/-- Two states show the same time under the same configuration. -/
structure SameTime (s t : State) : Prop where
  cfg : t.cfg = s.cfg
  sec : t.r.sec = s.r.sec
  min : t.r.min = s.r.min
  hr  : t.r.hr = s.r.hr

namespace SameTime

/-- ADVANCE reads the configuration and the units only (R120). -/
theorem advance (h : SameTime s t) : SameTime (advance s) (advance t) := by
  obtain ⟨hcfg, hsec, hmin, hhr⟩ := h
  rw [advance_eq, advance_eq]
  exact ⟨hcfg, by rw [hcfg, hsec], by rw [hcfg, hsec, hmin], by rw [hcfg, hsec, hmin, hhr]⟩

theorem advanceTimes (n : Nat) : ∀ {s t : State}, SameTime s t →
    SameTime (advanceTimes n s) (advanceTimes n t) := by
  induction n with
  | zero => exact fun h => h
  | succ n ih => exact fun h => ih h.advance

theorem shownSlots_eq (h : SameTime s t) : shownSlots t = shownSlots s :=
  shownSlots_congr h.cfg h.sec h.min h.hr

theorem renderAccesses_eq (h : SameTime s t) : renderAccesses t = renderAccesses s := by
  simp only [renderAccesses, shownPatterns, h.cfg, h.sec, h.min, h.hr]

/-- Advances and a render as one update: the units are those that the advances reach from any state that
shows the same time, and the display shows them. -/
theorem render_advanceTimes (h : SameTime s t) (hn : t.cfg.nslots = 6) (hs : SlotsSized t) (n : Nat) :
    render (Machine.advanceTimes n t) = { interludes 6 t with
      r := { t.r with
        sec := (Machine.advanceTimes n s).r.sec
        min := (Machine.advanceTimes n s).r.min
        hr := (Machine.advanceTimes n s).r.hr
        slots := shownSlots (Machine.advanceTimes n s) }
      trace := t.trace ++ renderAccesses (Machine.advanceTimes n s) } := by
  have hn' := h.advanceTimes n
  obtain ⟨sec, min, hr, heq⟩ := advanceTimes_eq n t
  rw [heq] at hn' ⊢
  rw [render_eq (by exact hn) (by exact hs), hn'.shownSlots_eq, hn'.renderAccesses_eq]
  obtain ⟨-, rfl, rfl, rfl⟩ := hn'
  rfl

end SameTime

/-- The environment's turns neither read nor write the block registers and the trace. -/
theorem interludes_with_r_trace (n : Nat) (r : Block) (l : List Access) : ∀ s : State,
    interludes n { s with r := r, trace := l } = { interludes n s with r := r, trace := l } := by
  induction n with
  | zero => exact fun _ => rfl
  | succ n ih => exact fun s => ih (interlude s)

/-! ### The level-polled channel (R185) -/

/-- The button is sampled once, and the channel acts on the sample. -/
theorem levelService_eq (s : State) : levelService s =
    onButton (interlude s).p.btn
      { interlude s with trace := s.trace ++ [.readBtn (interlude s).p.btn] } := rfl

/-- Control proceeds exactly when the button is seen released. -/
theorem onButton_fst (b : Bool) (s : State) : (onButton b s).1 = !b := by
  unfold onButton
  cases s.r.phase <;> cases b <;> rfl

/-- No press: the sample changes nothing. -/
theorem onButton_no_press (hphase : s.r.phase = .sample) : onButton false s = (true, s) := by
  simp [onButton, hphase]

theorem onButton_press (hphase : s.r.phase = .sample) : onButton true s = (false, pressStep s) := by
  simp [onButton, hphase]

/-- A spin step changes nothing (R186). -/
theorem onButton_spin (hphase : s.r.phase = .waitRelease) : onButton true s = (false, s) := by
  simp [onButton, hphase]

theorem onButton_release (hphase : s.r.phase = .waitRelease) :
    onButton false s = (true, s.setPhase .sample) := by
  simp [onButton, hphase]

/-- The selector is two bits of the switches (R8, R38). -/
theorem switchSelector_eq {c : Config} (hc : c.wellFormed = true) (x : Switches) :
    switchSelector c x = (x.extractLsb' c.selLsb 2).toNat := by
  rw [switchSelector, Config.selW_eq hc]

/-- The raw value is six bits of the switches (R8, R38). -/
theorem switchValue_eq {c : Config} (hc : c.wellFormed = true) (x : Switches) :
    switchValue c x = (x.extractLsb' c.valLsb 6).toNat := by
  rw [switchValue, Config.valW_eq hc]

/-- The press step: the switches are read once, and their two fields set a unit, which is shown. -/
theorem pressStep_eq (hc : s.cfg.wellFormed = true) : pressStep s =
    (render (setField ((interlude s).p.sw.extractLsb' s.cfg.selLsb 2).toNat
      ((interlude s).p.sw.extractLsb' s.cfg.valLsb 6).toNat
      { interlude s with
        trace := s.trace ++ [.readSwitches (interlude s).p.sw] })).setPhase .waitRelease := by
  rw [← switchSelector_eq hc, ← switchValue_eq hc]
  rfl

/-- LEVELSVC executes once booted in the polling mode. -/
theorem exec_levelsvc (hc : s.cfg.wellFormed = true) (hb : s.r.booted = true)
    (hm : s.cfg.mode = .poll) : exec .levelsvc s = .next (levelService s).2 :=
  exec_of_mode hc hb hm

/-! ### The spin (R186, 70_reset_and_hazards.md R275) -/

/-- Events without a release leave the button pressed. -/
theorem applyEvents_btn_of_no_release (c : Config) {es : List EnvEvent}
    (hes : EnvEvent.btn false ∉ es) : ∀ {p : Platform}, p.btn = true →
      (applyEvents c p es).btn = true := by
  induction es with
  | nil => exact fun hp => hp
  | cons e es ih =>
    intro p hp
    rw [List.mem_cons, not_or] at hes
    obtain ⟨he, hes⟩ := hes
    refine ih hes ?_
    cases e with
    | btn v =>
      cases v with
      | false => exact absurd rfl he
      | true => rfl
    | timeout | line _ | sw _ => exact hp

/-- Without a release in the schedule's first turn, the button is still pressed after it. -/
theorem interlude_btn_of_no_release (hbtn : s.p.btn = true)
    (henv : ∀ es ∈ s.env, EnvEvent.btn false ∉ es) : (interlude s).p.btn = true := by
  refine applyEvents_btn_of_no_release s.cfg ?_ hbtn
  cases hs : s.env with
  | nil => exact List.not_mem_nil
  | cons es _ => exact henv es (by simp [hs])

/-- A polling iteration that finds the button still pressed samples it and makes no other access. -/
theorem pollIteration_spin (hphase : s.r.phase = .waitRelease) (hbtn : (interlude s).p.btn = true) :
    pollIteration s = { interlude s with trace := s.trace ++ [.readBtn true] } := by
  rw [pollIteration, levelService_eq, hbtn, onButton_spin (by exact hphase)]
  rfl

/-- POLL executes once booted in the polling mode. -/
theorem exec_poll (hc : s.cfg.wellFormed = true) (hb : s.r.booted = true)
    (hm : s.cfg.mode = .poll) : exec .poll s = .next (pollIteration s) :=
  exec_of_mode hc hb hm

end Sys2Proof.Machine

open Sys2Proof Sys2Proof.Machine

/-- Settles O32: the three outcomes of the capture bit and the sampled level. -/
theorem edgeServicePaths : Obligations.EdgeServicePaths := by
  refine ⟨rfl, fun s hc hb hm => ?_⟩
  rw [exec_edgesvc hc hb hm]
  refine ⟨fun hcap => ?_, fun hcap hline => ?_, fun hcap hline => ?_⟩
  · rw [edgeService_of_cap_clear hcap]
  · rw [edgeService_of_inactive hcap hline]
    rfl
  · rw [edgeService_of_active hcap hline]
    rfl

/-- Settles O33: the path of an active level, with the advances as a write of the three units and the
render as six display writes. -/
theorem edgeServiceCallCounts : Obligations.EdgeServiceCallCounts := by
  intro s hc hb hm hs a b c hcap hline
  refine ⟨_, _, [.readCap true, .ackCap true, .readLine true] ++ renderAccesses _,
    exec_edgesvc hc hb hm, execAll_replicate_advance _ hc hb, ?_, rfl, rfl, rfl, rfl⟩
  rw [edgeService_of_active hcap hline,
    SameTime.render_advanceTimes (s := s) (by exact ⟨rfl, rfl, rfl, rfl⟩)
      (by exact Config.nslots_eq hc) (by exact hs),
    interludes_with_r_trace, List.append_assoc]
  rfl

/-- Settles O34: the button's sample in the two phases. -/
theorem levelServicePaths : Obligations.LevelServicePaths := by
  refine ⟨rfl, fun s hc hb hm => ?_⟩
  rw [exec_levelsvc hc hb hm, levelService_eq]
  refine ⟨onButton_fst _ _, fun hphase hbtn => ?_, fun hphase hbtn => ?_, fun hphase hbtn => ?_,
    fun hphase hbtn => ?_⟩
  · rw [hbtn, onButton_no_press (by exact hphase)]
  · rw [hbtn, onButton_press (by exact hphase), pressStep_eq (by exact hc)]
    refine ⟨_, rfl, ?_⟩
    rw [List.append_assoc]
    rfl
  · rw [hbtn, onButton_spin (by exact hphase)]
  · rw [hbtn, onButton_release (by exact hphase)]
    rfl

/-- Settles O35: each POLL is a spin step, which leaves the button pressed. -/
theorem spinWithoutReleaseServicesNothing : Obligations.SpinWithoutReleaseServicesNothing := by
  intro s n hc hb hm hphase hbtn henv
  induction n generalizing s with
  | zero => exact ⟨s, rfl, rfl, rfl, hbtn, id, fun _ => rfl, by simp⟩
  | succ n ih =>
    have hpressed := interlude_btn_of_no_release hbtn henv
    obtain ⟨t, hrun, hr, hrefusals, hlast, htimeout, hquiet, htrace⟩ :=
      ih { interlude s with trace := s.trace ++ [.readBtn true] } hc hb hm hphase hpressed
        fun es hes => henv es (List.mem_of_mem_tail hes)
    refine ⟨t, ?_, hr, hrefusals, hlast, fun h => htimeout ?_, fun h => ?_, ?_⟩
    · rw [List.replicate_succ, execAll_cons (exec_poll hc hb hm), pollIteration_spin hphase hpressed]
      exact hrun
    · exact (applyEvents_sets _ _ _).1 h
    · exact (hquiet (congrArg List.tail h)).trans (congrArg State.p (interlude_of_no_events h) :)
    · rw [htrace, List.append_assoc]
      rfl
end

section
/-! PROOF. The event dispatcher: the two timer paths (O36, O37), the interrupt entry (O38), the polling
iteration (O40, O42) and NOP (O41). -/

namespace Sys2Proof.Machine

variable {s t : State} {c : Cause}

/-! ### The timer paths (46_event_dispatcher.md R200, R201) -/

/-- The acknowledgement of the timer (10_state.md R34): one turn of the environment, then the flag is
cleared, whatever it was. -/
theorem ackTimer_eq (s : State) : ackTimer s =
    { interlude s with
      p := { (interlude s).p with timeout := false }
      trace := s.trace ++ [.ackTimer] } := rfl

/-- TIMERSVC.IRQ executes once booted in the interrupt mode. -/
theorem exec_timersvcIrq (hc : s.cfg.wellFormed = true) (hb : s.r.booted = true)
    (hm : s.cfg.mode = .irq) : exec .timersvcIrq s = .next (timerServiceIrq s) :=
  exec_of_mode hc hb hm

/-- TIMERSVC.POLL executes once booted in the polling mode. -/
theorem exec_timersvcPoll (hc : s.cfg.wellFormed = true) (hb : s.r.booted = true)
    (hm : s.cfg.mode = .poll) : exec .timersvcPoll s = .next (timerServicePoll s) :=
  exec_of_mode hc hb hm

/-! ### The interrupt entry (R210) -/

/-- The word of IRQ is its class and the cause (30_encoding.md R81). -/
theorem toNat_encode_irq (c : Cause) : (encode (.irq c)).toNat = 0xC000 + c.toNat := by
  simp only [encode, toNat_append_eq, BitVec.toNat_ofNat]
  omega

/-- An entry is admitted unless its request is not pending (60_exceptions.md R246). -/
theorem exec_irq (hc : s.cfg.wellFormed = true) (hb : s.r.booted = true) (hm : s.cfg.mode = .irq)
    (hie : s.p.ie = true) (hn : ¬ NotPending s c) :
    exec (.irq c) s = .next (dispatchCause c s) := by
  refine exec_admitted ?_
  rw [refusalReason_of_entryCause hc rfl (.inl hb) (by rw [hm]; rfl)]
  exact (entryRefusal_of_enabled hie).2 hn

/-- The edge source's cause is recognised in DISTINCT, where it is not the timer's (30_encoding.md R92). -/
theorem dispatchCause_edge (ht : c ≠ s.cfg.causeTimer) (hl : s.cfg.edgeLayout = .distinct)
    (he : c = s.cfg.causeEdge) : dispatchCause c s = edgeService s := by
  rw [dispatchCause, classifyCause, if_neg ht, hl]
  simp only [if_pos he]

/-- A cause that is neither the timer's nor, in DISTINCT, the edge source's does nothing. -/
theorem dispatchCause_unrecognised (ht : c ≠ s.cfg.causeTimer)
    (he : s.cfg.edgeLayout = .distinct → c ≠ s.cfg.causeEdge) : dispatchCause c s = s := by
  rw [dispatchCause, classifyCause, if_neg ht]
  cases hl : s.cfg.edgeLayout with
  | shared => rfl
  | distinct => simp only [if_neg (he hl)]

/-! ### The polling iteration (R212) -/

/-- Control proceeds exactly when the button is sampled released (45_input_edge_detector.md R185). -/
theorem levelService_fst (s : State) : (levelService s).1 = !(interlude s).p.btn :=
  onButton_fst _ _

/-- The button sampled asserted: the iteration is the level channel alone. -/
theorem pollIteration_of_pressed (h : (interlude s).p.btn = true) :
    pollIteration s = (levelService s).2 := by
  rw [pollIteration, levelService_fst, h]
  rfl

/-- The button sampled released: the timer path follows. -/
theorem pollIteration_of_released (h : (interlude s).p.btn = false) :
    pollIteration s = timerServicePoll (levelService s).2 := by
  rw [pollIteration, levelService_fst, h]
  rfl

/-! ### A press and a timeout of one iteration (R213) -/

/-- The unit that the switches select, set to their raw value (R185), with nothing shown yet. -/
def setFromSwitches (s : State) : State :=
  setField (s.p.sw.extractLsb' s.cfg.selLsb 2).toNat (s.p.sw.extractLsb' s.cfg.valLsb 6).toNat s

/-- It is what SETF does with those two operands. -/
theorem exec_setf_switches (hc : s.cfg.wellFormed = true) (hb : s.r.booted = true) :
    exec (.setf (s.p.sw.extractLsb' s.cfg.selLsb 2) ((s.p.sw.extractLsb' s.cfg.valLsb 6).setWidth 8)) s =
      .next (setFromSwitches s) := by
  have hraw : ((s.p.sw.extractLsb' s.cfg.valLsb 6).setWidth 8).toNat =
      (s.p.sw.extractLsb' s.cfg.valLsb 6).toNat :=
    BitVec.toNat_setWidth_of_le (by decide)
  rw [exec_of_booted hc hb, effect, hraw]
  rfl

/-- It writes no more than the three units. -/
theorem setFromSwitches_frame (s : State) : ∃ sec min hr, setFromSwitches s =
    { s with r := { s.r with sec := sec, min := min, hr := hr } } :=
  ⟨_, _, _, setField_eq _ _ s⟩

/-- A polling iteration that finds a press, with no event inside: the selected unit is set and shown. -/
theorem pollIteration_press (hc : s.cfg.wellFormed = true) (he : s.env = [])
    (hphase : s.r.phase = .sample) (hbtn : s.p.btn = true) :
    pollIteration s = (render { setFromSwitches s with
      trace := s.trace ++ [.readBtn true, .readSwitches s.p.sw] }).setPhase .waitRelease := by
  have hquiet : ∀ l, interlude { s with trace := l } = { s with trace := l } :=
    fun _ => interlude_of_no_events he
  rw [pollIteration_of_pressed (by rw [interlude_of_no_events he, hbtn]), levelService_eq,
    interlude_of_no_events he, hbtn, onButton_press (by exact hphase), pressStep_eq (by exact hc),
    hquiet, setFromSwitches, setField_eq, setField_eq, List.append_assoc]
  rfl

/-- The press step leaves the timer pending: no platform field is written, and of the registers only the
selected unit, the slots and the phase. -/
theorem pollIteration_press_frame (hc : s.cfg.wellFormed = true) (hs : SlotsSized s) (he : s.env = [])
    (hphase : s.r.phase = .sample) (hbtn : s.p.btn = true) :
    (pollIteration s).r = { (setFromSwitches s).r with
      slots := shownSlots (setFromSwitches s), phase := .waitRelease } ∧
    (pollIteration s).p = s.p ∧ (pollIteration s).env = [] := by
  obtain ⟨sec, min, hr, hset⟩ := setFromSwitches_frame s
  rw [pollIteration_press hc he hphase hbtn, hset,
    render_eq (by exact Config.nslots_eq hc) (by exact hs), interludes_of_no_events 6 (by exact he)]
  exact ⟨rfl, rfl, he⟩

/-- The state in which a release step ticks, with no event inside: the phase is back at `SAMPLE`, and the
timeout is acknowledged and counted by the heartbeat. -/
def atReleaseTick (s : State) : State :=
  { s with
    r := { s.r with phase := .sample, hb := (s.r.hb + 1) % 2 ^ s.cfg.hbW }
    p := { s.p with timeout := false }
    trace := s.trace ++ [.readBtn false, .readTimerStatus true, .ackTimer] }

/-- A polling iteration that finds the release and a timeout pending, with no event inside. -/
theorem pollIteration_release (he : s.env = []) (hphase : s.r.phase = .waitRelease)
    (hbtn : s.p.btn = false) (hto : s.p.timeout = true) :
    pollIteration s = divideAndShow (atReleaseTick s) := by
  have hreleased : (interlude s).p.btn = false := by rw [interlude_of_no_events he, hbtn]
  rw [pollIteration_of_released hreleased, levelService_eq, hreleased,
    onButton_release (by exact hphase), interlude_of_no_events he,
    timerServicePoll_pending (by exact he) (by exact hto), ackTimer_quiet (by exact he), atReleaseTick]
  simp [beat, State.setHb, State.record, State.setPhase]

/-- What the release step leaves: the timeout is acknowledged and ticked, and on a wrap the time is the one
ADVANCE gives before the step, and is shown. -/
theorem pollIteration_release_frame (hc : s.cfg.wellFormed = true) (hs : SlotsSized s)
    (he : s.env = []) (hphase : s.r.phase = .waitRelease) (hbtn : s.p.btn = false)
    (hto : s.p.timeout = true) :
    (pollIteration s).p = { s.p with timeout := false } ∧
    (s.r.tick.toNat + 1 ≠ s.cfg.divisor → (pollIteration s).r = { s.r with
      phase := .sample
      hb := (s.r.hb + 1) % 2 ^ s.cfg.hbW
      tick := BitVec.ofNat 4 (s.r.tick.toNat + 1) }) ∧
    (s.r.tick.toNat + 1 = s.cfg.divisor → (pollIteration s).r = { (advance s).r with
      phase := .sample
      hb := (s.r.hb + 1) % 2 ^ s.cfg.hbW
      tick := 0#4
      slots := shownSlots (advance s) }) := by
  rw [pollIteration_release he hphase hbtn hto]
  refine ⟨(divideAndShow_frame (s := atReleaseTick s) hc he hs).1, fun htick => ?_, fun htick => ?_⟩
  · rw [divideAndShow_nowrap (by exact htick)]
    rfl
  · have hsame : SameTime s (atReleaseTick s) := ⟨rfl, rfl, rfl, rfl⟩
    rw [divideAndShow_wrap_quiet (by exact hc) (by exact he) (by exact hs) (by exact htick),
      hsame.advance.shownSlots_eq, advance_eq, advance_eq s]
    rfl

end Sys2Proof.Machine

open Sys2Proof Sys2Proof.Machine

/-- Settles O36: the acknowledgement, then a tick that wraps or does not. -/
theorem timerServiceIrqPaths : Obligations.TimerServiceIrqPaths := by
  refine ⟨rfl, fun s hc hb hm => ?_⟩
  rw [exec_timersvcIrq hc hb hm, timerServiceIrq, ackTimer_eq]
  refine ⟨fun htick => ?_, fun htick => ?_⟩
  · rw [divideAndShow_nowrap (by exact htick)]
    rfl
  · rw [divideAndShow_wrap (by exact htick)]
    rfl

/-- Settles O37: the flag's sample, and where it is set a beat and a tick that wraps or does not. -/
theorem timerServicePollPaths : Obligations.TimerServicePollPaths := by
  refine ⟨rfl, fun s hc hb hm => ?_⟩
  rw [exec_timersvcPoll hc hb hm, timerServicePoll_eq]
  refine ⟨fun hto => ?_, fun hto htick => ?_, fun hto htick => ?_⟩
  · simp only [hto]
    rfl
  · simp only [hto, if_true]
    rw [divideAndShow_nowrap (by exact htick)]
  · simp only [hto, if_true]
    rw [divideAndShow_wrap (by exact htick)]

/-- Settles O38, by the class of the cause. -/
theorem irqDispatchesCause : Obligations.IrqDispatchesCause := by
  refine ⟨toNat_encode_irq, fun s c hc hb hm hie => ⟨?_, ?_, ?_⟩⟩
  · rintro rfl hto hito
    have hkept := timerServiceIrq_shell s
    refine ⟨_, exec_timersvcIrq hc hb hm, fun hl => ?_, fun hl => ⟨_, exec_edgesvc ?_ ?_ ?_, ?_⟩⟩
    · rw [exec_irq_timer hc hb hm hie hito hto, dispatchCause_timer, hl]
      rfl
    · exact hkept.cfg ▸ hc
    · exact hkept.booted.trans hb
    · exact hkept.cfg ▸ hm
    · rw [exec_irq_timer hc hb hm hie hito hto, dispatchCause_timer, if_pos hl]
  · intro ht hl he hcap hcapIe
    refine ⟨_, exec_edgesvc hc hb hm, ?_⟩
    rw [exec_irq hc hb hm hie (by simp [NotPending, ht, hcap, hcapIe]), dispatchCause_edge ht hl he]
  · intro ht he
    rw [exec_irq hc hb hm hie (by simp +contextual [NotPending, ht, he]),
      dispatchCause_unrecognised ht he]

/-- Settles O40, by the sample of the button. -/
theorem pollSamplesButtonFirst : Obligations.PollSamplesButtonFirst := by
  refine ⟨rfl, fun s hc hb hm => ⟨_, exec_levelsvc hc hb hm, fun hbtn => ?_, fun hbtn => ?_⟩⟩
  · rw [exec_poll hc hb hm, pollIteration_of_pressed hbtn]
  · have hkept := levelService_shell s
    refine ⟨_, exec_timersvcPoll (hkept.cfg ▸ hc) (hkept.booted.trans hb) (hkept.cfg ▸ hm), ?_⟩
    rw [exec_poll hc hb hm, pollIteration_of_released hbtn]

/-- Settles O42: a press step, and then a release step that serves the timeout the press step left
pending. -/
theorem buttonEffectsFirst : Obligations.ButtonEffectsFirst := by
  intro s hc hb hm hs he hphase hbtn hto sel raw
  have hpress := exec_poll hc hb hm
  have hkept := pollIteration_shell s
  obtain ⟨htr, htp, hte⟩ := pollIteration_press_frame hc hs he hphase hbtn
  obtain ⟨sec, min, hr, hset⟩ := setFromSwitches_frame s
  generalize pollIteration s = t at hpress hkept htr htp hte
  have htick : t.r.tick = s.r.tick := by rw [htr, hset]
  have hhb : t.r.hb = s.r.hb := by rw [htr, hset]
  have hct : t.cfg.wellFormed = true := hkept.cfg ▸ hc
  have hbt : t.r.booted = true := hkept.booted.trans hb
  have hst : SlotsSized t := by
    rw [SlotsSized, htr, Config.nslots_eq hct]
    exact length_shownSlots _
  have hrelease : exec (.btn false) t = .next { t with p := { t.p with btn := false } } :=
    exec_at_any_time hct rfl
  refine ⟨_, _, _, _, _, exec_setf_switches hc hb, hpress, hrelease, exec_advance hct hbt,
    exec_poll hct hbt (hkept.cfg ▸ hm), htr, htp, ?_⟩
  rw [← htick, ← hhb, ← hkept.cfg, ← htp]
  exact pollIteration_release_frame (s := { t with p := { t.p with btn := false } }) hct hst hte
    (by rw [htr]) rfl ((congrArg Platform.timeout htp).trans hto)

/-- Settles O41: NOP is admitted once booted, and refused by the third row of R87 before. -/
theorem nopDoesNothing : Obligations.NopDoesNothing :=
  ⟨rfl, fun _ hc => ⟨fun hb => exec_of_booted hc hb, fun hb =>
    exec_refused (refusalReason_of_not_booted hc rfl hb rfl)⟩⟩
end

section
/-! PROOF. RESET (O43) and the environment events TIMEOUT (O45), LINE (O47), BTN (O48) and SW (O49). -/

namespace Sys2Proof.Machine

/-! ### The words of the events with an operand (30_encoding.md R81) -/

theorem toNat_encode_line (v : Bool) : (encode (.line v)).toNat = 0xF200 + v.toNat := by
  cases v <;> rfl

theorem toNat_encode_btn (v : Bool) : (encode (.btn v)).toNat = 0xF300 + v.toNat := by
  cases v <;> rfl

theorem toNat_encode_sw (x : Switches) : (encode (.sw x)).toNat = 0xE000 + x.toNat := by
  simp only [encode, toNat_append_eq, BitVec.toNat_ofNat]
  omega

/-! ### The capture condition (46_event_dispatcher.md R222) -/

/-- A change of the line is captured when `EDGE_POLARITY` allows its direction. -/
theorem captures_iff (pol : EdgePolarity) (old new : Bool) : captures pol old new = true ↔
    old ≠ new ∧ (pol = .any ∨ (pol = .rise ∧ new = true) ∨ (pol = .fall ∧ new = false)) := by
  cases pol <;> simp [captures]

end Sys2Proof.Machine

open Sys2Proof Sys2Proof.Machine

/-- Settles O43: RESET works at any time, and clears as many slots as R7 gives. -/
theorem resetLeaves : Obligations.ResetLeaves := by
  refine ⟨rfl, fun s hc => ?_⟩
  rw [exec_at_any_time hc rfl, effect, clearForReset, Config.nslots_eq hc]
  rfl

/-- Settles O45, by the lemma on TIMEOUT that the coalescing of timeouts rests on. -/
theorem timeoutSetsFlag : Obligations.TimeoutSetsFlag :=
  ⟨rfl, fun _ => exec_timeout⟩

/-- Settles O47: the capture bit is kept or set by an allowed change. -/
theorem lineSetsLevelAndCaptures : Obligations.LineSetsLevelAndCaptures := by
  refine ⟨toNat_encode_line, fun s v hc => ⟨_, exec_at_any_time hc rfl, rfl, ?_⟩⟩
  rw [← captures_iff, ← Bool.or_eq_true]
  rfl

/-- Settles O48: BTN works at any time. -/
theorem btnSetsButton : Obligations.BtnSetsButton :=
  ⟨toNat_encode_btn, fun _ _ hc => exec_at_any_time hc rfl⟩

/-- Settles O49: SW works at any time, with a value of `SW_W` bits. -/
theorem swSetsSwitches : Obligations.SwSetsSwitches :=
  ⟨toNat_encode_sw, fun _ _ hc hx => exec_at_any_time hc (decide_eq_true hx)⟩
end

section
/-! PROOF. The button and the switches in the interrupt mode (O53). -/

namespace Sys2Proof.Machine

variable {s t : State}

/-! ### What a difference in the button and the switches becomes (46_event_dispatcher.md R216) -/

/-- Two states differ in the button and the switches at most. -/
def SameButInputs (s t : State) : Prop :=
  ∃ b x, t = { s with p := { s.p with btn := b, sw := x } }

/-- An event keeps the difference, or removes half of it. -/
theorem applyEvent_inputs (c : Config) (p : Platform) (b : Bool) (x : Switches) (e : EnvEvent) :
    ∃ b' x', applyEvent c { p with btn := b, sw := x } e =
      { applyEvent c p e with btn := b', sw := x' } := by
  cases e with
  | timeout | line _ => exact ⟨b, x, rfl⟩
  | btn v => exact ⟨v, x, rfl⟩
  | sw y => exact ⟨b, y, rfl⟩

theorem applyEvents_inputs (c : Config) (es : List EnvEvent) :
    ∀ (p : Platform) (b : Bool) (x : Switches), ∃ b' x',
      applyEvents c { p with btn := b, sw := x } es =
        { applyEvents c p es with btn := b', sw := x' } := by
  induction es with
  | nil => exact fun _ b x => ⟨b, x, rfl⟩
  | cons e es ih =>
    intro p b x
    obtain ⟨b', x', he⟩ := applyEvent_inputs c p b x e
    obtain ⟨b'', x'', hes⟩ := ih (applyEvent c p e) b' x'
    exact ⟨b'', x'', by rw [applyEvents_cons, he, hes, applyEvents_cons]⟩

namespace SameButInputs

variable (h : SameButInputs s t)
include h

/-! The environment's turn and the port accesses of the interrupt mode. -/

theorem interlude : SameButInputs (interlude s) (interlude t) := by
  obtain ⟨b, x, rfl⟩ := h
  obtain ⟨b', x', hp⟩ := applyEvents_inputs s.cfg (s.env.headD []) s.p b x
  exact ⟨b', x', by rw [Machine.interlude, hp, Machine.interlude]⟩

theorem readCap : (readCap t).1 = (readCap s).1 ∧ SameButInputs (readCap s).2 (readCap t).2 := by
  obtain ⟨b, x, heq⟩ := h.interlude
  rw [Machine.readCap, heq]
  exact ⟨rfl, b, x, rfl⟩

theorem readLine :
    (readLine t).1 = (readLine s).1 ∧ SameButInputs (readLine s).2 (readLine t).2 := by
  obtain ⟨b, x, heq⟩ := h.interlude
  rw [Machine.readLine, heq]
  exact ⟨rfl, b, x, rfl⟩

theorem ackTimer : SameButInputs (ackTimer s) (ackTimer t) := by
  obtain ⟨b, x, heq⟩ := h.interlude
  rw [Machine.ackTimer, Machine.ackTimer, heq]
  exact ⟨b, x, rfl⟩

theorem ackCap (v : Bool) : SameButInputs (ackCap v s) (ackCap v t) := by
  obtain ⟨b, x, heq⟩ := h.interlude
  rw [Machine.ackCap, Machine.ackCap, heq]
  exact ⟨b, x, rfl⟩

theorem slotWrite (i : BitVec 4) (v : Byte) : SameButInputs (slotWrite i v s) (slotWrite i v t) := by
  obtain ⟨b, x, heq⟩ := h.interlude
  rw [Machine.slotWrite, Machine.slotWrite, heq]
  exact ⟨b, x, rfl⟩

/-! The sub-steps of the commands. -/

theorem cfg : t.cfg = s.cfg := by
  obtain ⟨b, x, rfl⟩ := h
  rfl

theorem setLatch (v : Bool) : SameButInputs (s.setLatch v) (t.setLatch v) := by
  obtain ⟨b, x, rfl⟩ := h
  exact ⟨b, x, rfl⟩

theorem advance : SameButInputs (advance s) (advance t) := by
  obtain ⟨b, x, rfl⟩ := h
  rw [advance_eq, advance_eq]
  exact ⟨b, x, rfl⟩

theorem setField (sel raw : Nat) : SameButInputs (setField sel raw s) (setField sel raw t) := by
  obtain ⟨b, x, rfl⟩ := h
  rw [setField_eq, setField_eq]
  exact ⟨b, x, rfl⟩

theorem tick : (tick t).1 = (tick s).1 ∧ SameButInputs (tick s).2 (tick t).2 := by
  obtain ⟨b, x, rfl⟩ := h
  rw [tick_fst, tick_fst, tick_snd, tick_snd]
  exact ⟨rfl, b, x, rfl⟩

omit h in
theorem advanceTimes (n : Nat) : ∀ {s t : State}, SameButInputs s t →
    SameButInputs (advanceTimes n s) (advanceTimes n t) := by
  induction n with
  | zero => exact fun h => h
  | succ n ih => exact fun h => ih h.advance

omit h in
theorem renderSlots (digits : List (BitVec 4)) (l : List Nat) : ∀ {s t : State}, SameButInputs s t →
    SameButInputs (renderSlots digits l s) (renderSlots digits l t) := by
  induction l with
  | nil => exact fun h => h
  | cons i l ih =>
    intro s t h
    rw [Machine.renderSlots, Machine.renderSlots, h.cfg]
    exact ih (h.slotWrite _ _)

theorem render : SameButInputs (render s) (render t) := by
  have hslots := h.renderSlots (decompose s) (List.range s.cfg.nslots)
  obtain ⟨b, x, rfl⟩ := h
  exact hslots

theorem latchAndAdvance (lvl : Bool) :
    SameButInputs (latchAndAdvance lvl s) (latchAndAdvance lvl t) := by
  cases lvl with
  | false => exact h.setLatch false
  | true =>
    have hadv := (h.setLatch true).advanceTimes s.cfg.edgeAdv
    rw [Machine.latchAndAdvance, Machine.latchAndAdvance, h.cfg]
    exact hadv.render

theorem serviceEdge : SameButInputs (serviceEdge s) (serviceEdge t) := by
  obtain ⟨hlevel, hread⟩ := (h.ackCap true).readLine
  rw [Machine.serviceEdge, Machine.serviceEdge, hlevel]
  exact hread.latchAndAdvance _

theorem edgeService : SameButInputs (edgeService s) (edgeService t) := by
  obtain ⟨hcap, hread⟩ := h.readCap
  rw [Machine.edgeService, Machine.edgeService, hcap]
  split
  · exact hread.serviceEdge
  · exact hread

theorem divideAndShow : SameButInputs (divideAndShow s) (divideAndShow t) := by
  obtain ⟨hwrap, hticked⟩ := h.tick
  rw [Machine.divideAndShow, Machine.divideAndShow, hwrap]
  split
  · exact hticked.advance.render
  · exact hticked

theorem timerServiceIrq : SameButInputs (timerServiceIrq s) (timerServiceIrq t) :=
  h.ackTimer.divideAndShow

theorem dispatchCause (c : Cause) : SameButInputs (dispatchCause c s) (dispatchCause c t) := by
  rw [Machine.dispatchCause, Machine.dispatchCause, h.cfg]
  cases classifyCause s.cfg c with
  | timer =>
    cases s.cfg.edgeLayout with
    | shared => exact h.timerServiceIrq.edgeService
    | distinct => exact h.timerServiceIrq
  | edge => exact h.edgeService
  | unrecognised => exact h

/-- An event as a command. -/
theorem applyEvent (e : EnvEvent) :
    SameButInputs (s.setP (applyEvent s.cfg s.p e)) (t.setP (applyEvent t.cfg t.p e)) := by
  obtain ⟨b, x, rfl⟩ := h
  obtain ⟨b', x', hp⟩ := applyEvent_inputs s.cfg s.p b x e
  exact ⟨b', x', congrArg s.setP hp⟩

/-- A command of both modes, or of the interrupt mode, carries a difference in the button and the switches
on to such a difference at most. -/
theorem effect {i : Instr} (hi : needsMode i ≠ some .poll) :
    SameButInputs (effect i s) (effect i t) := by
  cases i with
  | poll | levelsvc | timersvcPoll => exact absurd rfl hi
  | nop => exact h
  | encode | blank | decomp | reset =>
    obtain ⟨b, x, rfl⟩ := h
    exact ⟨b, x, rfl⟩
  | advance => exact h.advance
  | setf sel raw => exact h.setField sel.toNat raw.toNat
  | tick =>
    obtain ⟨hwrap, b, x, hticked⟩ := h.tick
    rw [Machine.effect, Machine.effect, hwrap, hticked]
    exact ⟨b, x, rfl⟩
  | render => exact h.render
  | wslot idx pat => exact h.slotWrite idx pat
  | edgesvc => exact h.edgeService
  | timersvcIrq => exact h.timerServiceIrq
  | irq c => exact h.dispatchCause c
  | sw y => exact h.applyEvent (.sw y)
  | timeout => exact h.applyEvent .timeout
  | line v => exact h.applyEvent (.line v)
  | btn v => exact h.applyEvent (.btn v)

/-- Admission reads neither the button nor the switches (30_encoding.md R87). -/
theorem refusalReason_eq (i : Instr) : refusalReason i t = refusalReason i s := by
  obtain ⟨b, x, rfl⟩ := h
  rfl

theorem refuse (w : Word) (why : Reason) : SameButInputs (s.refuse w why) (t.refuse w why) := by
  obtain ⟨b, x, rfl⟩ := h
  exact ⟨b, x, rfl⟩

/-- The same of a command in the interrupt mode, admitted or refused. -/
theorem exec {i : Instr} (hm : s.cfg.mode = .irq) {u v : State} (hu : exec i s = .next u)
    (hv : exec i t = .next v) : SameButInputs u v := by
  have hreason := h.refusalReason_eq i
  cases hi : refusalReason i s with
  | some why =>
    rw [exec_refused hi] at hu
    rw [exec_refused (hreason.trans hi)] at hv
    cases hu
    cases hv
    exact h.refuse _ why
  | none =>
    rw [exec_admitted hi] at hu
    rw [exec_admitted (hreason.trans hi)] at hv
    cases hu
    cases hv
    refine h.effect fun hpoll => ?_
    have hmode := mode_of_admitted hi hpoll
    rw [hm] at hmode
    cases hmode

end SameButInputs

end Sys2Proof.Machine

open Sys2Proof Sys2Proof.Machine

/-- Settles O53: a command of the interrupt mode reads neither the button nor the switches, and a command
of the polling mode is refused. -/
theorem buttonAndSwitchesInertInIrqMode : Obligations.ButtonAndSwitchesInertInIrqMode := by
  intro i s t t' b x hm ht ht'
  have hsame : SameButInputs s { s with p := { s.p with btn := b, sw := x } } := ⟨b, x, rfl⟩
  obtain ⟨b', x', rfl⟩ := hsame.exec hm ht ht'
  exact ⟨rfl, rfl⟩
end

section
/-! PROOF. Refusals and steps (O11, O12), and the admission of an interrupt entry (O39). -/

namespace Sys2Proof.Machine

variable {i : Instr} {s t : State} {c : Cause}

/-! ### What a command and a step do to the refusal log (60_exceptions.md R242) -/

/-- A command records at most one refusal, after those already recorded. -/
theorem refusals_of_exec (h : exec i s = .next t) :
    ∃ more, t.refusals = s.refusals ++ more ∧ more.length ≤ 1 := by
  rcases exec_cases h with ⟨why, -, rfl⟩ | ⟨-, -, rfl⟩ | ⟨-, -, -, hshell⟩
  · exact ⟨[⟨encode i, why⟩], rfl, Nat.le_refl 1⟩
  · exact ⟨[], (List.append_nil _).symm, Nat.zero_le 1⟩
  · exact ⟨[], hshell.refusals.trans (List.append_nil _).symm, Nat.zero_le 1⟩

/-- The same of a step. -/
theorem refusals_of_step (h : step s = .next t) :
    ∃ more, t.refusals = s.refusals ++ more ∧ more.length ≤ 1 := by
  rcases step_cases h with ⟨-, rfl⟩ | ⟨i, rest, -, he⟩ | ⟨w, rest, -, rfl⟩
  · exact ⟨[], (List.append_nil _).symm, Nat.zero_le 1⟩
  · exact refusals_of_exec (s := { s with commands := rest }) he
  · exact ⟨[⟨w, _⟩], rfl, Nat.le_refl 1⟩

/-- The mark says that something was recorded. -/
theorem refusalMark_iff (s : State) : s.refusalMark = true ↔ s.refusals ≠ [] := by
  simp [State.refusalMark]

/-! ### Every outcome is a next state (R240, R243) -/

/-- A command executes or is recorded. -/
theorem exists_exec_next (i : Instr) (s : State) : ∃ t, exec i s = .next t := by
  cases hi : refusalReason i s with
  | none => exact ⟨_, exec_admitted hi⟩
  | some why => exact ⟨_, exec_refused hi⟩

/-! ### The admission of an interrupt entry (R246) -/

/-- The admission table for an interrupt entry: the first two rows of 30_encoding.md R87 hold no more under a
well-formed configuration. -/
theorem refusalReason_irq (hc : s.cfg.wellFormed = true) : refusalReason (.irq c) s =
    if s.r.booted = false then some .notReset
    else if s.cfg.mode ≠ .irq then some .wrongMode
    else entryRefusal s c := by
  cases hb : s.r.booted <;> cases hm : s.cfg.mode <;>
    simp [refusalReason, hc, hb, hm, Instr.wellFormed, worksBeforeReset, wrongMode, needsMode, entryCause]

/-- An entry needs interrupts enabled, and where its cause names a request, that request pending. -/
theorem entryRefusal_eq_none_iff (hc : s.cfg.wellFormed = true) : entryRefusal s c = none ↔
    s.p.ie = true ∧ (c = s.cfg.causeTimer → irqTimer s = true) ∧
      (s.cfg.edgeLayout = .distinct → c = s.cfg.causeEdge → irqEdge s = true) := by
  cases hie : s.p.ie with
  | false => simp [entryRefusal_of_disabled hie]
  | true =>
    obtain ⟨hrefused, hadmitted⟩ := entryRefusal_of_enabled (c := c) hie
    have hiff : entryRefusal s c = none ↔ ¬ NotPending s c :=
      ⟨fun h hn => by simp [hrefused hn] at h, hadmitted⟩
    rw [hiff, NotPending, irqTimer, irqEdge]
    by_cases ht : c = s.cfg.causeTimer
    · have hne : s.cfg.edgeLayout = .distinct → ¬ s.cfg.causeTimer = s.cfg.causeEdge :=
        fun hl => (Config.causes_ne hc hl).symm
      simp +contextual [ht, hne]
    · simp [ht]

/-- What refuses an entry for its cause: interrupts disabled, or no request (R87, last two rows). -/
theorem mem_of_entryRefusal {why : Reason} (h : entryRefusal s c = some why) :
    why ∈ [Reason.irqDisabled, .irqNotPending] := by
  cases hie : s.p.ie with
  | false =>
    cases (entryRefusal_of_disabled hie).symm.trans h
    exact List.mem_cons_self
  | true =>
    obtain ⟨hrefused, hadmitted⟩ := entryRefusal_of_enabled (c := c) hie
    by_cases hn : NotPending s c
    · cases (hrefused hn).symm.trans h
      exact List.mem_cons_of_mem _ List.mem_cons_self
    · cases (hadmitted hn).symm.trans h

end Sys2Proof.Machine

open Sys2Proof Sys2Proof.Machine

/-- Settles O11: a step appends to the log, so a log that is not empty stays so. -/
theorem refusalMarkPersists : Obligations.RefusalMarkPersists := by
  refine ⟨fun i s why => exec_refused, fun s t h => ?_, rfl⟩
  obtain ⟨more, hmore, hlen⟩ := refusals_of_step h
  refine ⟨⟨more, hmore, hlen⟩, fun hs => ?_⟩
  rw [refusalMark_iff] at hs ⊢
  exact hmore ▸ List.append_ne_nil_of_left_ne_nil hs more

/-- Settles O12, by what the queue offers. -/
theorem everyStepAnswersNextState : Obligations.EveryStepAnswersNextState := by
  intro s
  match hq : s.commands with
  | [] => exact ⟨s, step_of_no_command hq⟩
  | w :: rest =>
    match hd : decode s.cfg.swW w with
    | .ok i => rw [step_of_decodes hq hd]; exact exists_exec_next i _
    | .error e => exact ⟨_, step_of_reserved hq hd⟩

/-- Settles O39, by the rows of the admission table that can refuse an entry. -/
theorem irqAdmission : Obligations.IrqAdmission := by
  intro s c hc
  refine ⟨?_, fun hne => ?_⟩
  · rw [refusalReason_irq hc]
    split_ifs with hb hm
    · simp [hb]
    · simp [hm]
    · simp [hb, not_not.1 hm, entryRefusal_eq_none_iff hc]
  · obtain ⟨why, hwhy⟩ := Option.ne_none_iff_exists'.1 hne
    refine ⟨why, ?_, exec_refused hwhy⟩
    rw [refusalReason_irq hc] at hwhy
    split_ifs at hwhy
    · cases hwhy
      exact List.mem_cons_self
    · cases hwhy
      exact List.mem_cons_of_mem _ List.mem_cons_self
    · exact List.mem_cons_of_mem _ (List.mem_cons_of_mem _ (mem_of_entryRefusal hwhy))
end

section
/-! PROOF. The pending requests: what lowers them, and that a fair run takes them (O57). -/

namespace Sys2Proof.Machine

variable {i : Instr} {s t u : State} {c : Cause}

/-! ### What an operation that acknowledges nothing does to the platform (20_memory.md R66) -/

theorem applyEvents_append (c : Config) (p : Platform) (es es' : List EnvEvent) :
    applyEvents c p (es ++ es') = applyEvents c (applyEvents c p es) es' :=
  List.foldl_append

/-- From `s` to `t` only events of the schedule write the platform. -/
structure EventsOnly (s t : State) : Prop where
  cfg    : t.cfg = s.cfg
  events : ∃ es, t.p = applyEvents s.cfg s.p es
  quiet  : s.env = [] → t.env = [] ∧ t.p = s.p

theorem EventsOnly.of_eq (hcfg : t.cfg = s.cfg) (hp : t.p = s.p) (henv : t.env = s.env) :
    EventsOnly s t :=
  ⟨hcfg, ⟨[], hp⟩, fun he => ⟨henv.trans he, hp⟩⟩

theorem EventsOnly.trans (h : EventsOnly s t) (k : EventsOnly t u) : EventsOnly s u where
  cfg := k.cfg.trans h.cfg
  events := by
    obtain ⟨es, hes⟩ := h.events
    obtain ⟨es', hes'⟩ := k.events
    exact ⟨es ++ es', by rw [hes', h.cfg, hes, applyEvents_append]⟩
  quiet he := by
    obtain ⟨hte, htp⟩ := h.quiet he
    obtain ⟨hue, hup⟩ := k.quiet hte
    exact ⟨hue, hup.trans htp⟩

theorem interlude_eventsOnly (s : State) : EventsOnly s (interlude s) :=
  ⟨rfl, ⟨_, interlude_p s⟩, fun he => by rw [interlude_of_no_events he]; exact ⟨he, rfl⟩⟩

theorem slotWrite_eventsOnly (j : BitVec 4) (v : Byte) (s : State) : EventsOnly s (slotWrite j v s) :=
  (interlude_eventsOnly s).trans (.of_eq rfl rfl rfl)

theorem renderSlots_eventsOnly (digits : List (BitVec 4)) (l : List Nat) :
    ∀ s, EventsOnly s (renderSlots digits l s) := by
  induction l with
  | nil => exact fun s => .of_eq rfl rfl rfl
  | cons j l ih => exact fun s => (slotWrite_eventsOnly _ _ s).trans (ih _)

theorem render_eventsOnly (s : State) : EventsOnly s (render s) := renderSlots_eventsOnly _ _ s

theorem advance_eventsOnly (s : State) : EventsOnly s (advance s) := by
  rw [advance_eq]
  exact .of_eq rfl rfl rfl

theorem advanceTimes_eventsOnly (n : Nat) : ∀ s, EventsOnly s (advanceTimes n s) := by
  induction n with
  | zero => exact fun s => .of_eq rfl rfl rfl
  | succ n ih => exact fun s => (advance_eventsOnly s).trans (ih _)

theorem setField_eventsOnly (sel raw : Nat) (s : State) : EventsOnly s (setField sel raw s) := by
  rw [setField_eq]
  exact .of_eq rfl rfl rfl

theorem tick_eventsOnly (s : State) : EventsOnly s (tick s).2 := by
  rw [tick_snd]
  exact .of_eq rfl rfl rfl

theorem divideAndShow_eventsOnly (s : State) : EventsOnly s (divideAndShow s) := by
  unfold divideAndShow
  split
  · exact ((tick_eventsOnly s).trans (advance_eventsOnly _)).trans (render_eventsOnly _)
  · exact tick_eventsOnly s

theorem latchAndAdvance_eventsOnly (lvl : Bool) (s : State) :
    EventsOnly s (latchAndAdvance lvl s) := by
  have hlatch : EventsOnly s (s.setLatch lvl) := .of_eq rfl rfl rfl
  cases lvl with
  | false => exact hlatch
  | true => exact (hlatch.trans (advanceTimes_eventsOnly _ _)).trans (render_eventsOnly _)

/-! ### What keeps the flags of the requests (10_state.md R34, R35) -/

/-- The timeout flag and the capture bit stay set from `s` to `t`. -/
structure KeepsFlags (s t : State) : Prop where
  timeout : s.p.timeout = true → t.p.timeout = true
  cap     : s.p.cap = true → t.p.cap = true

/-- No event clears a flag. -/
theorem EventsOnly.keepsFlags (h : EventsOnly s t) : KeepsFlags s t := by
  obtain ⟨es, hes⟩ := h.events
  obtain ⟨htimeout, hcap⟩ := applyEvents_sets s.cfg es s.p
  rw [← hes] at htimeout hcap
  exact ⟨htimeout, hcap⟩

theorem setP_applyEvent_keepsFlags (s : State) (e : EnvEvent) :
    KeepsFlags s (s.setP (applyEvent s.cfg s.p e)) := by
  obtain ⟨htimeout, hcap⟩ := applyEvents_sets s.cfg [e] s.p
  exact ⟨htimeout, hcap⟩

/-- The timer path acknowledges the timer only (46_event_dispatcher.md R200). -/
theorem timerServiceIrq_cap (h : s.p.cap = true) : (timerServiceIrq s).p.cap = true :=
  (divideAndShow_eventsOnly _).keepsFlags.cap ((interlude_eventsOnly s).keepsFlags.cap h)

/-- The edge channel acknowledges the capture bit only (45_input_edge_detector.md R180). -/
theorem edgeService_timeout (h : s.p.timeout = true) : (edgeService s).p.timeout = true := by
  have hturn {u : State} (hu : u.p.timeout = true) : (interlude u).p.timeout = true :=
    (interlude_eventsOnly u).keepsFlags.timeout hu
  cases hcap : (interlude s).p.cap with
  | false =>
    rw [edgeService_of_cap_clear hcap]
    exact hturn h
  | true =>
    rw [edgeService_of_cap_set hcap]
    exact (latchAndAdvance_eventsOnly _ _).keepsFlags.timeout (hturn (hturn (hturn h)))

/-- An entry with another cause than the timer's leaves the timeout flag set. -/
theorem dispatchCause_timeout (hc : c ≠ s.cfg.causeTimer) (h : s.p.timeout = true) :
    (dispatchCause c s).p.timeout = true := by
  by_cases he : s.cfg.edgeLayout = .distinct ∧ c = s.cfg.causeEdge
  · rw [dispatchCause_edge hc he.1 he.2]
    exact edgeService_timeout h
  · rw [dispatchCause_unrecognised hc fun hl hce => he ⟨hl, hce⟩]
    exact h

/-- In DISTINCT an entry with another cause than the edge source's leaves the capture bit set. -/
theorem dispatchCause_cap (hl : s.cfg.edgeLayout = .distinct) (hc : c ≠ s.cfg.causeEdge)
    (h : s.p.cap = true) : (dispatchCause c s).p.cap = true := by
  by_cases ht : c = s.cfg.causeTimer
  · rw [ht, dispatchCause_timer, if_neg (by rw [hl]; exact nofun)]
    exact timerServiceIrq_cap h
  · rw [dispatchCause_unrecognised ht fun _ => hc]
    exact h

/-- A command of both modes acknowledges nothing, RESET apart. -/
theorem effect_keepsFlags (hm : needsMode i = none) (hne : i ≠ .reset) (s : State) :
    KeepsFlags s (effect i s) := by
  cases i with
  | edgesvc | levelsvc | timersvcIrq | timersvcPoll | irq | poll => cases hm
  | reset => exact absurd rfl hne
  | nop | encode | blank | decomp => exact ⟨id, id⟩
  | advance => exact (advance_eventsOnly s).keepsFlags
  | setf sel raw => exact (setField_eventsOnly sel.toNat raw.toNat s).keepsFlags
  | tick =>
    have hshown : EventsOnly (tick s).2 (effect .tick s) := .of_eq rfl rfl rfl
    exact ((tick_eventsOnly s).trans hshown).keepsFlags
  | render => exact (render_eventsOnly s).keepsFlags
  | wslot j v => exact (slotWrite_eventsOnly j v s).keepsFlags
  | sw x => exact setP_applyEvent_keepsFlags s (.sw x)
  | timeout => exact setP_applyEvent_keepsFlags s .timeout
  | line v => exact setP_applyEvent_keepsFlags s (.line v)
  | btn v => exact setP_applyEvent_keepsFlags s (.btn v)

theorem needsMode_eq_irq_iff (i : Instr) :
    needsMode i = some .irq ↔ (∃ c, i = .irq c) ∨ i = .edgesvc ∨ i = .timersvcIrq := by
  cases i <;> simp [needsMode]

/-- Outside the polling mode only the timer's entry, TIMERSVC.IRQ and RESET clear the timeout flag. -/
theorem effect_timeout (hm : needsMode i ≠ some .poll) (hreset : i ≠ .reset)
    (hsvc : i ≠ .timersvcIrq) (hirq : i ≠ .irq s.cfg.causeTimer) (h : s.p.timeout = true) :
    (effect i s).p.timeout = true := by
  match hi : needsMode i with
  | none => exact (effect_keepsFlags hi hreset s).timeout h
  | some .poll => exact absurd hi hm
  | some .irq =>
    rcases (needsMode_eq_irq_iff i).1 hi with ⟨c, rfl⟩ | rfl | rfl
    · exact dispatchCause_timeout (fun hc => hirq (hc ▸ rfl)) h
    · exact edgeService_timeout h
    · exact absurd rfl hsvc

/-- In DISTINCT, outside the polling mode, only the edge source's entry, EDGESVC and RESET clear the capture
bit. -/
theorem effect_cap (hl : s.cfg.edgeLayout = .distinct) (hm : needsMode i ≠ some .poll)
    (hreset : i ≠ .reset) (hsvc : i ≠ .edgesvc) (hirq : i ≠ .irq s.cfg.causeEdge)
    (h : s.p.cap = true) : (effect i s).p.cap = true := by
  match hi : needsMode i with
  | none => exact (effect_keepsFlags hi hreset s).cap h
  | some .poll => exact absurd hi hm
  | some .irq =>
    rcases (needsMode_eq_irq_iff i).1 hi with ⟨c, rfl⟩ | rfl | rfl
    · exact dispatchCause_cap hl (fun hc => hirq (hc ▸ rfl)) h
    · exact absurd rfl hsvc
    · exact timerServiceIrq_cap h

/-! ### What lowers a request (60_exceptions.md R244) -/

/-- A request stays up where its flag stays set: no operation writes the masks. -/
theorem timerRequested.of_shell (h : timerRequested s) (hk : SameShell s t)
    (hflag : s.p.timeout = true → t.p.timeout = true) : timerRequested t := by
  obtain ⟨hreq, hie⟩ := h
  obtain ⟨hto, hito⟩ := Bool.and_eq_true_iff.1 hreq
  exact ⟨Bool.and_eq_true_iff.2 ⟨hflag hto, hk.timIto.trans hito⟩, hk.ie.trans hie⟩

theorem edgeRequested.of_shell (h : edgeRequested s) (hk : SameShell s t)
    (hflag : s.p.cap = true → t.p.cap = true) : edgeRequested t := by
  obtain ⟨hreq, hie⟩ := h
  obtain ⟨hcap, hcapIe⟩ := Bool.and_eq_true_iff.1 hreq
  exact ⟨Bool.and_eq_true_iff.2 ⟨hflag hcap, hk.capIe.trans hcapIe⟩, hk.ie.trans hie⟩

/-- In the interrupt mode no command of the polling mode is admitted. -/
theorem needsMode_ne_poll_of_admitted (hm : s.cfg.mode = .irq) (hi : refusalReason i s = none) :
    needsMode i ≠ some .poll := by
  intro hpoll
  have hmode := mode_of_admitted hi hpoll
  rw [hm] at hmode
  cases hmode

/-- Besides RESET and TIMERSVC.IRQ, only an admitted entry with its cause lowers the timer's request. -/
theorem timerRequested.exec (h : timerRequested s) (hm : s.cfg.mode = .irq) (hreset : i ≠ .reset)
    (hsvc : i ≠ .timersvcIrq)
    (hnot : ¬ (i = .irq s.cfg.causeTimer ∧ refusalReason (.irq s.cfg.causeTimer) s = none))
    (he : exec i s = .next t) : timerRequested t := by
  rcases exec_cases he with ⟨why, -, rfl⟩ | ⟨-, hr, -⟩ | ⟨hi, -, rfl, hshell⟩
  · exact h
  · exact absurd hr hreset
  · exact h.of_shell hshell (effect_timeout (needsMode_ne_poll_of_admitted hm hi) hreset hsvc
      fun hirq => hnot ⟨hirq, hirq ▸ hi⟩)

/-- In DISTINCT, besides RESET and EDGESVC, only an admitted entry with its cause lowers the edge's
request. -/
theorem edgeRequested.exec (h : edgeRequested s) (hm : s.cfg.mode = .irq)
    (hl : s.cfg.edgeLayout = .distinct) (hreset : i ≠ .reset) (hsvc : i ≠ .edgesvc)
    (hnot : ¬ (i = .irq s.cfg.causeEdge ∧ refusalReason (.irq s.cfg.causeEdge) s = none))
    (he : exec i s = .next t) : edgeRequested t := by
  rcases exec_cases he with ⟨why, -, rfl⟩ | ⟨-, hr, -⟩ | ⟨hi, -, rfl, hshell⟩
  · exact h
  · exact absurd hr hreset
  · exact h.of_shell hshell (effect_cap hl (needsMode_ne_poll_of_admitted hm hi) hreset hsvc
      fun hirq => hnot ⟨hirq, hirq ▸ hi⟩)

/-! ### A run in which no entry takes the request (R247) -/

namespace Run

variable {ρ : Run} {n : Nat}

/-- A run has one configuration (00_scope.md R7). -/
theorem cfg_eq (ρ : Run) {m : Nat} (hle : n ≤ m) : (ρ.state m).cfg = (ρ.state n).cfg := by
  induction m, hle using Nat.le_induction with
  | base => rfl
  | succ m _ ih => exact (exec_keeps_cfg_commands (ρ.next m)).1.trans ih

/-- A request that only its own entry lowers is taken, where the run is fair to it. -/
theorem exists_takes {cause : Config → Cause} {Requested : State → Prop}
    (hstays : ∀ m, n ≤ m → ¬ ρ.takes (.irq (cause (ρ.state m).cfg)) m →
      Requested (ρ.state m) → Requested (ρ.state (m + 1)))
    (hfair : (∀ m, n ≤ m → Requested (ρ.state m)) →
      ∃ m, n ≤ m ∧ ρ.takes (.irq (cause (ρ.state m).cfg)) m)
    (h : Requested (ρ.state n)) : ∃ m, n ≤ m ∧ ρ.takes (.irq (cause (ρ.state n).cfg)) m := by
  by_contra hnone
  have hnot : ∀ m, n ≤ m → ¬ ρ.takes (.irq (cause (ρ.state m).cfg)) m :=
    fun m hle htaken => hnone ⟨m, hle, ρ.cfg_eq hle ▸ htaken⟩
  have hup : ∀ m, n ≤ m → Requested (ρ.state m) :=
    Nat.le_induction h fun m hle => hstays m hle (hnot m hle)
  obtain ⟨m, hle, htaken⟩ := hfair hup
  exact hnot m hle htaken

end Run

end Sys2Proof.Machine

open Sys2Proof Sys2Proof.Machine

/-- Settles O57: only an admitted entry with its cause lowers a request, so one that no entry takes stays
up, and then the run is not fair. -/
theorem fairRunTakesTimerRequest : Obligations.FairRunTakesTimerRequest := by
  constructor
  · intro ρ n hfair hm hinstr
    refine Run.exists_takes (cause := Config.causeTimer) (fun m hle hnot hreq => ?_) (hfair.timer n)
    obtain ⟨hreset, hsvc⟩ := hinstr m hle
    exact timerRequested.exec (s := ρ.before m) hreq (ρ.cfg_eq hle ▸ hm) hreset hsvc hnot (ρ.next m)
  · intro ρ n hfair hm hl hinstr
    refine Run.exists_takes (cause := Config.causeEdge) (fun m hle hnot hreq => ?_) (hfair.edge n)
    obtain ⟨hreset, hsvc⟩ := hinstr m hle
    exact edgeRequested.exec (s := ρ.before m) hreq (ρ.cfg_eq hle ▸ hm) (ρ.cfg_eq hle ▸ hl) hreset hsvc
      hnot (ρ.next m)
end

section
/-! PROOF. Both requests pending, in either order (O52). -/

namespace Sys2Proof.Machine

variable {s t u : State}

/-! ### The time and the divider after an entry, the display apart -/

/-- Two states show the same time under the same configuration, and their dividers stand alike. -/
structure SameClock (s t : State) : Prop extends SameTime s t where
  tick : t.r.tick = s.r.tick

/-- The time and the divider after a serviced timeout (43_rate_divider.md R142), without its render. -/
def ticked (s : State) : State := if wraps s then advance (tick s).2 else (tick s).2

theorem ticked_eq (s : State) : ticked s =
    if s.r.tick.toNat + 1 = s.cfg.divisor then advance (s.setTick 0)
    else s.setTick (s.r.tick.toNat + 1) := by
  rw [ticked, wraps, beq_eq_decide, tick_snd]
  by_cases h : s.r.tick.toNat + 1 = s.cfg.divisor <;> simp [h]

theorem advance_tick (s : State) : (advance s).r.tick = s.r.tick := by rw [advance_eq]

/-- A serviced timeout and an advance may change places. -/
theorem ticked_advance (s : State) : ticked (advance s) = advance (ticked s) := by
  simp only [ticked_eq, advance_tick, advance_cfg, ← advance_setTick]
  split <;> rfl

theorem ticked_advanceTimes (n : Nat) : ∀ s, ticked (advanceTimes n s) = advanceTimes n (ticked s) := by
  induction n with
  | zero => exact fun _ => rfl
  | succ n ih => exact fun s => (ih (advance s)).trans (congrArg (advanceTimes n) (ticked_advance s))

namespace SameClock

theorem of_eq (hcfg : t.cfg = s.cfg) (hr : t.r = s.r) : SameClock s t :=
  ⟨⟨hcfg, hr ▸ rfl, hr ▸ rfl, hr ▸ rfl⟩, hr ▸ rfl⟩

theorem trans (h : SameClock s t) (k : SameClock t u) : SameClock s u :=
  ⟨⟨k.cfg.trans h.cfg, k.sec.trans h.sec, k.min.trans h.min, k.hr.trans h.hr⟩, k.tick.trans h.tick⟩

theorem timeNumber_eq (h : SameClock s t) : timeNumber t = timeNumber s := by
  simp only [timeNumber, h.sec, h.min, h.hr]

theorem setTick (h : SameClock s t) (n : Nat) : SameClock (s.setTick n) (t.setTick n) :=
  ⟨⟨h.cfg, h.sec, h.min, h.hr⟩, rfl⟩

theorem advance (h : SameClock s t) : SameClock (advance s) (advance t) :=
  ⟨h.toSameTime.advance, by rw [advance_tick, advance_tick, h.tick]⟩

theorem advanceTimes (n : Nat) : ∀ {s t : State}, SameClock s t →
    SameClock (advanceTimes n s) (advanceTimes n t) := by
  induction n with
  | zero => exact fun h => h
  | succ n ih => exact fun h => ih h.advance

theorem ticked (h : SameClock s t) : SameClock (ticked s) (ticked t) := by
  rw [ticked_eq, ticked_eq, h.tick, h.cfg]
  split
  · exact (h.setTick _).advance
  · exact h.setTick _

end SameClock

/-- A render writes the display only (44_display_renderer.md R160), whatever happens inside it. -/
theorem renderSlots_clock (digits : List (BitVec 4)) (l : List Nat) :
    ∀ s, SameClock s (renderSlots digits l s) := by
  induction l with
  | nil => exact fun _ => .of_eq rfl rfl
  | cons j l ih =>
    intro s
    have hwrite (v : Byte) : SameClock s (slotWrite (BitVec.ofNat 4 j) v s) :=
      ⟨⟨rfl, rfl, rfl, rfl⟩, rfl⟩
    exact (hwrite _).trans (ih _)

theorem render_clock (s : State) : SameClock s (render s) := renderSlots_clock _ _ s

theorem divideAndShow_clock (s : State) : SameClock (ticked s) (divideAndShow s) := by
  unfold ticked divideAndShow
  rw [tick_fst]
  split
  · exact render_clock _
  · exact .of_eq rfl rfl

theorem latchAndAdvance_clock (lvl : Bool) (s : State) :
    SameClock (advanceTimes (if lvl then s.cfg.edgeAdv else 0) s) (latchAndAdvance lvl s) := by
  have hlatch : SameClock s (s.setLatch lvl) := ⟨⟨rfl, rfl, rfl, rfl⟩, rfl⟩
  cases lvl with
  | false => exact hlatch
  | true => exact (hlatch.advanceTimes _).trans (render_clock _)

/-! ### The two entries with no event inside -/

/-- With no event inside, the timer path clears the timeout flag and nothing else of the platform. -/
theorem timerServiceIrq_quiet (he : s.env = []) :
    (timerServiceIrq s).env = [] ∧ (timerServiceIrq s).p = { s.p with timeout := false } := by
  have hquiet := (divideAndShow_eventsOnly (ackTimer s)).quiet
  rw [ackTimer_quiet he] at hquiet
  rw [timerServiceIrq, ackTimer_quiet he]
  exact hquiet he

theorem timerServiceIrq_clock (s : State) : SameClock (ticked s) (timerServiceIrq s) := by
  have hack : SameClock s (ackTimer s) := .of_eq rfl rfl
  exact hack.ticked.trans (divideAndShow_clock _)

/-- With an edge captured and no event inside, the edge channel acts on the line as it stands. -/
theorem edgeService_captured (he : s.env = []) (hcap : s.p.cap = true) : edgeService s =
    latchAndAdvance s.p.line { s with
      p := { s.p with cap := false }
      trace := s.trace ++ [.readCap true, .ackCap true, .readLine s.p.line] } := by
  have hsample : atLevelSample s = { s with p := { s.p with cap := false } } := by
    rw [atLevelSample, interlude_of_no_events he, interlude_of_no_events he]
    exact interlude_of_no_events he
  rw [edgeService_of_cap_set (by rwa [interlude_of_no_events he]), hsample]

theorem edgeService_quiet (he : s.env = []) (hcap : s.p.cap = true) :
    (edgeService s).env = [] ∧ (edgeService s).p = { s.p with cap := false } := by
  rw [edgeService_captured he hcap]
  exact (latchAndAdvance_eventsOnly _ _).quiet he

theorem edgeService_clock (he : s.env = []) (hcap : s.p.cap = true) :
    SameClock (advanceTimes (if s.p.line then s.cfg.edgeAdv else 0) s) (edgeService s) := by
  rw [edgeService_captured he hcap]
  refine SameClock.trans ?_ (latchAndAdvance_clock _ _)
  exact SameClock.advanceTimes _ (.of_eq rfl rfl)

/-- With no event inside, the two services end at the same time of day and the same platform in either
order. -/
theorem services_commute (he : s.env = []) (hcap : s.p.cap = true) :
    timeNumber (edgeService (timerServiceIrq s)) = timeNumber (timerServiceIrq (edgeService s)) ∧
      (edgeService (timerServiceIrq s)).r.tick = (timerServiceIrq (edgeService s)).r.tick ∧
      (edgeService (timerServiceIrq s)).p = (timerServiceIrq (edgeService s)).p := by
  obtain ⟨hte, htp⟩ := timerServiceIrq_quiet he
  obtain ⟨hve, hvp⟩ := edgeService_quiet he hcap
  have hline : (timerServiceIrq s).p.line = s.p.line := by rw [htp]
  have hcapt : (timerServiceIrq s).p.cap = true := timerServiceIrq_cap hcap
  have hu : SameClock (advanceTimes (if s.p.line then s.cfg.edgeAdv else 0) (ticked s))
      (edgeService (timerServiceIrq s)) := by
    have hedge := edgeService_clock hte hcapt
    rw [hline, (timerServiceIrq_shell s).cfg] at hedge
    exact ((timerServiceIrq_clock s).advanceTimes _).trans hedge
  have hw : SameClock (advanceTimes (if s.p.line then s.cfg.edgeAdv else 0) (ticked s))
      (timerServiceIrq (edgeService s)) := by
    rw [← ticked_advanceTimes]
    exact (edgeService_clock he hcap).ticked.trans (timerServiceIrq_clock _)
  refine ⟨hu.timeNumber_eq.trans hw.timeNumber_eq.symm, hu.tick.trans hw.tick.symm, ?_⟩
  rw [(edgeService_quiet hte hcapt).2, htp, (timerServiceIrq_quiet hve).2, hvp]

/-! ### The two entries, admitted (60_exceptions.md R246) -/

/-- In the interrupt mode with causes of their own, a pending request alone decides on an entry. -/
structure DistinctEntries (s : State) : Prop where
  cfg    : s.cfg.wellFormed = true
  booted : s.r.booted = true
  mode   : s.cfg.mode = .irq
  layout : s.cfg.edgeLayout = .distinct

namespace DistinctEntries

theorem of_shell (h : DistinctEntries s) (hk : SameShell s t) : DistinctEntries t :=
  ⟨hk.cfg ▸ h.cfg, hk.booted.trans h.booted, hk.cfg ▸ h.mode, hk.cfg ▸ h.layout⟩

theorem exec_timer (h : DistinctEntries s) (hreq : timerRequested s) :
    exec (.irq s.cfg.causeTimer) s = .next (timerServiceIrq s) := by
  obtain ⟨htimer, hie⟩ := hreq
  obtain ⟨hto, hito⟩ := Bool.and_eq_true_iff.1 htimer
  rw [exec_irq_timer h.cfg h.booted h.mode hie hito hto, dispatchCause_timer,
    if_neg (by rw [h.layout]; exact nofun)]

theorem exec_edge (h : DistinctEntries s) (hreq : edgeRequested s) :
    exec (.irq s.cfg.causeEdge) s = .next (edgeService s) := by
  obtain ⟨hedge, hie⟩ := hreq
  have hne := Config.causes_ne h.cfg h.layout
  have hadmitted : refusalReason (.irq s.cfg.causeEdge) s = none :=
    (irqAdmission s s.cfg.causeEdge h.cfg).1.2
      ⟨h.mode, h.booted, hie, fun ht => absurd ht hne, fun _ _ => hedge⟩
  rw [exec_admitted hadmitted, effect, dispatchCause_edge hne h.layout rfl]

end DistinctEntries

end Sys2Proof.Machine

open Sys2Proof Sys2Proof.Machine

/-- Settles O52: each service leaves the other's flag set, and with no event inside they commute. -/
theorem eitherInterruptFirst : Obligations.EitherInterruptFirst := by
  intro s hc hb hm hl hie htimer hedge
  have hs : DistinctEntries s := ⟨hc, hb, hm, hl⟩
  have hkt := timerServiceIrq_shell s
  have hkv := edgeService_shell s
  have htimerReq : timerRequested s := ⟨htimer, hie⟩
  have hedgeReq : edgeRequested s := ⟨hedge, hie⟩
  have hu := (hs.of_shell hkt).exec_edge (hedgeReq.of_shell hkt timerServiceIrq_cap)
  have hw := (hs.of_shell hkv).exec_timer (htimerReq.of_shell hkv edgeService_timeout)
  rw [hkt.cfg] at hu
  rw [hkv.cfg] at hw
  refine ⟨_, _, _, _, hs.exec_timer htimerReq, hu, hs.exec_edge hedgeReq, hw, ?_, ?_, fun he => ?_⟩
  · exact (hkt.trans (edgeService_shell _)).refusals
  · exact (hkv.trans (timerServiceIrq_shell _)).refusals
  · exact services_commute he (Bool.and_eq_true_iff.1 hedge).1
end

section
/-! PROOF. Waiting for a command (O9), and the first RESET (O44). -/

open Sys2Proof Sys2Proof.Machine

/-- Settles O9: an empty queue offers no command. -/
theorem noCommandLeavesStateAlone : Obligations.NoCommandLeavesStateAlone :=
  fun _ => step_of_no_command

/-- Settles O44: RESET is admitted before the first RESET, and overwrites all that holds no value. -/
theorem resetFromPowerOn : Obligations.ResetFromPowerOn :=
  ⟨fun _ _ _ _ hc => exec_at_any_time hc rfl, rfl⟩
end

section
/-! PROOF. The number of port accesses of an interrupt entry (O51). -/

namespace Sys2Proof.Machine

variable {s t u : State} {m n : Nat}

/-! ### Accesses and turns of the schedule (20_memory.md R66) -/

/-- From `s` to `t` at most `n` port accesses are made, and each takes one turn of the schedule. -/
structure AccessesAtMost (n : Nat) (s t : State) : Prop where
  cfg      : t.cfg = s.cfg
  accesses : ∃ more, t.trace = s.trace ++ more ∧ more.length ≤ n ∧ t.env = s.env.drop more.length

namespace AccessesAtMost

/-- A step that leaves the trace and the schedule alone makes no access. -/
theorem of_eq (hcfg : t.cfg = s.cfg) (htrace : t.trace = s.trace) (henv : t.env = s.env) :
    AccessesAtMost n s t :=
  ⟨hcfg, [], by simp [htrace], Nat.zero_le n, henv⟩

theorem trans (h : AccessesAtMost m s t) (k : AccessesAtMost n t u) : AccessesAtMost (m + n) s u := by
  obtain ⟨hcfg, a, hta, hla, hea⟩ := h
  obtain ⟨kcfg, b, htb, hlb, heb⟩ := k
  refine ⟨kcfg.trans hcfg, a ++ b, by rw [htb, hta, List.append_assoc], ?_, ?_⟩
  · rw [List.length_append]
    exact Nat.add_le_add hla hlb
  · rw [heb, hea, List.drop_drop, List.length_append]

theorem mono (h : AccessesAtMost m s t) (hle : m ≤ n) : AccessesAtMost n s t := by
  obtain ⟨hcfg, more, htrace, hlen, henv⟩ := h
  exact ⟨hcfg, more, htrace, hlen.trans hle, henv⟩

/-- An access is one turn of the environment, and one entry of the trace. -/
theorem of_turn {a : Access} (hcfg : t.cfg = s.cfg) (htrace : t.trace = s.trace ++ [a])
    (henv : t.env = s.env.tail) : AccessesAtMost 1 s t :=
  ⟨hcfg, [a], htrace, Nat.le_refl 1, henv.trans List.drop_one.symm⟩

end AccessesAtMost

/-! ### The accesses of the sub-steps -/

theorem advance_accesses (s : State) : AccessesAtMost 0 s (advance s) := by
  rw [advance_eq]
  exact .of_eq rfl rfl rfl

theorem advanceTimes_accesses (n : Nat) (s : State) : AccessesAtMost 0 s (advanceTimes n s) := by
  obtain ⟨sec, min, hr, heq⟩ := advanceTimes_eq n s
  rw [heq]
  exact .of_eq rfl rfl rfl

theorem tick_accesses (s : State) : AccessesAtMost 0 s (tick s).2 := by
  rw [tick_snd]
  exact .of_eq rfl rfl rfl

/-- A display write for each slot of the list. -/
theorem renderSlots_accesses (digits : List (BitVec 4)) (l : List Nat) :
    ∀ s, AccessesAtMost l.length s (renderSlots digits l s) := by
  induction l with
  | nil => exact fun _ => .of_eq rfl rfl rfl
  | cons j l ih =>
    intro s
    have hwrite (v : Byte) : AccessesAtMost 1 s (slotWrite (BitVec.ofNat 4 j) v s) :=
      .of_turn rfl rfl rfl
    exact ((hwrite _).trans (ih _)).mono (by rw [List.length_cons, Nat.add_comm])

theorem render_accesses (s : State) : AccessesAtMost s.cfg.nslots s (render s) := by
  simpa [render] using renderSlots_accesses (decompose s) (List.range s.cfg.nslots) s

/-- A tick renders at most once (43_rate_divider.md R142). -/
theorem divideAndShow_accesses (s : State) : AccessesAtMost s.cfg.nslots s (divideAndShow s) := by
  unfold divideAndShow
  split
  · have hticked := (tick_accesses s).trans (advance_accesses _)
    exact (hticked.trans (render_accesses _)).mono (by rw [hticked.cfg]; omega)
  · exact (tick_accesses s).mono (Nat.zero_le _)

/-- The acknowledgement, and the render of a wrap (46_event_dispatcher.md R200). -/
theorem timerServiceIrq_accesses (s : State) :
    AccessesAtMost (1 + s.cfg.nslots) s (timerServiceIrq s) := by
  have hack : AccessesAtMost 1 s (ackTimer s) := .of_turn rfl rfl rfl
  exact hack.trans (divideAndShow_accesses (ackTimer s))

/-- An active level is rendered once, after any number of advances. -/
theorem latchAndAdvance_accesses (lvl : Bool) (s : State) :
    AccessesAtMost s.cfg.nslots s (latchAndAdvance lvl s) := by
  cases lvl with
  | false => exact .of_eq rfl rfl rfl
  | true =>
    have hlatch : AccessesAtMost 0 s (s.setLatch true) := .of_eq rfl rfl rfl
    have hadvanced := hlatch.trans (advanceTimes_accesses s.cfg.edgeAdv _)
    exact (hadvanced.trans (render_accesses _)).mono (by rw [hadvanced.cfg]; omega)

/-- The capture read, the acknowledgement, the level sample, and a render (45_input_edge_detector.md R180). -/
theorem edgeService_accesses (s : State) : AccessesAtMost (3 + s.cfg.nslots) s (edgeService s) := by
  have hread : AccessesAtMost 1 s (readCap s).2 := .of_turn rfl rfl rfl
  unfold edgeService
  split
  · have hack : AccessesAtMost 1 (readCap s).2 (ackCap true (readCap s).2) := .of_turn rfl rfl rfl
    have hline (u : State) : AccessesAtMost 1 u (readLine u).2 := .of_turn rfl rfl rfl
    have hsampled := (hread.trans hack).trans (hline _)
    have hserved := hsampled.trans (latchAndAdvance_accesses (readLine (ackCap true (readCap s).2)).1 _)
    rwa [hsampled.cfg] at hserved
  · exact hread.mono (by omega)

/-- The longest entry is the timer's in SHARED, with both services (46_event_dispatcher.md R210). -/
theorem dispatchCause_accesses (c : Cause) (s : State) :
    AccessesAtMost (4 + 2 * s.cfg.nslots) s (dispatchCause c s) := by
  have htimer := timerServiceIrq_accesses s
  unfold dispatchCause
  cases classifyCause s.cfg c with
  | timer =>
    cases s.cfg.edgeLayout with
    | shared => exact (htimer.trans (edgeService_accesses _)).mono (by rw [htimer.cfg]; omega)
    | distinct => exact htimer.mono (by omega)
  | edge => exact (edgeService_accesses s).mono (by omega)
  | unrecognised => exact .of_eq rfl rfl rfl

/-! ### The longest entry -/

/-- TP3, where the divider wraps at the next timeout, with a timeout pending and an active edge captured:
the timer's entry acknowledges and renders, and then reads, acknowledges, samples and renders. -/
def longestEntry : State :=
  let s := (State.resetWith (Config.tp3 { hr := 0, min := 0, sec := 0 }) true false 0#12).setTick 9
  s.setP { s.p with timeout := true, cap := true }

end Sys2Proof.Machine

open Sys2Proof Sys2Proof.Machine

/-- Settles O51: an admitted entry has six slots to render, at most twice, and at most four other accesses;
the timer's entry in SHARED reaches that number. -/
theorem irqAccessBound : Obligations.IrqAccessBound := by
  constructor
  · intro s t c h
    rcases exec_cases h with ⟨why, -, rfl⟩ | ⟨-, hreset, -⟩ | ⟨hadmitted, -, rfl, -⟩
    · exact ⟨[], (List.append_nil _).symm, Nat.zero_le 16, rfl⟩
    · cases hreset
    · have hbound := dispatchCause_accesses c s
      rw [Config.nslots_eq (entry_admitted hadmitted).1] at hbound
      exact hbound.accesses
  · have hadmitted : refusalReason (.irq 16#12) longestEntry = none := by decide
    exact ⟨longestEntry, _, 16#12, exec_admitted hadmitted, hadmitted, by decide⟩
end

section
/-! PROOF. A pending timeout in the polling mode: what acknowledges it, and that a run with releases does
(O58). -/

namespace Sys2Proof.Machine

variable {i : Instr} {s t : State}

/-! ### The level channel acknowledges nothing (45_input_edge_detector.md R185) -/

theorem pressStep_eventsOnly (s : State) : EventsOnly s (pressStep s) := by
  have hread : EventsOnly s (readSwitches s).2 := (interlude_eventsOnly s).trans (.of_eq rfl rfl rfl)
  have hphase (u : State) : EventsOnly u (u.setPhase .waitRelease) := .of_eq rfl rfl rfl
  exact ((hread.trans (setField_eventsOnly _ _ _)).trans (render_eventsOnly _)).trans (hphase _)

theorem onButton_eventsOnly (b : Bool) (s : State) : EventsOnly s (onButton b s).2 := by
  unfold onButton
  cases s.r.phase with
  | sample =>
    cases b with
    | false => exact .of_eq rfl rfl rfl
    | true => exact pressStep_eventsOnly s
  | waitRelease => cases b <;> exact .of_eq rfl rfl rfl

theorem levelService_eventsOnly (s : State) : EventsOnly s (levelService s).2 := by
  have hread : EventsOnly s (readBtn s).2 := (interlude_eventsOnly s).trans (.of_eq rfl rfl rfl)
  exact hread.trans (onButton_eventsOnly _ _)

/-- A button seen released is the channel's only access. -/
theorem onButton_released_trace (s : State) : (onButton false s).2.trace = s.trace := by
  unfold onButton
  cases s.r.phase <;> rfl

/-! ### What acknowledges the timer (46_event_dispatcher.md R201, R212) -/

/-- From `s` to `t` the timer is acknowledged. -/
def AcksTimer (s t : State) : Prop := ∃ more, t.trace = s.trace ++ more ∧ .ackTimer ∈ more

/-- TIMERSVC.POLL acknowledges a pending timeout. -/
theorem timerServicePoll_acks (h : s.p.timeout = true) : AcksTimer s (timerServicePoll s) := by
  have hsampled : (interlude s).p.timeout = true := (interlude_eventsOnly s).keepsFlags.timeout h
  rw [timerServicePoll_eq]
  simp only [hsampled, if_true]
  obtain ⟨-, shown, htrace, -, -⟩ := divideAndShow_accesses { interlude (interlude s) with
    r := { s.r with hb := (s.r.hb + 1) % 2 ^ s.cfg.hbW }
    p := { (interlude (interlude s)).p with timeout := false }
    trace := s.trace ++ [.readTimerStatus true, .ackTimer] }
  exact ⟨[.readTimerStatus true, .ackTimer] ++ shown, by rw [htrace, List.append_assoc], by simp⟩

/-- So does a POLL that samples the button released. -/
theorem pollIteration_acks (hbtn : (interlude s).p.btn = false) (h : s.p.timeout = true) :
    AcksTimer s (pollIteration s) := by
  have hsampled : (levelService s).2.trace = s.trace ++ [.readBtn false] := by
    rw [levelService_eq, hbtn, onButton_released_trace]
  obtain ⟨more, htrace, hmem⟩ :=
    timerServicePoll_acks ((levelService_eventsOnly s).keepsFlags.timeout h)
  rw [pollIteration_of_released hbtn]
  exact ⟨.readBtn false :: more, by rw [htrace, hsampled, List.append_assoc]; rfl,
    List.mem_cons_of_mem _ hmem⟩

theorem needsMode_eq_poll_iff (i : Instr) :
    needsMode i = some .poll ↔ i = .poll ∨ i = .levelsvc ∨ i = .timersvcPoll := by
  cases i <;> simp [needsMode]

/-- A command of the polling mode leaves a pending timeout pending or acknowledges it. -/
theorem effect_timeout_or_acks (hi : needsMode i = some .poll) (h : s.p.timeout = true) :
    (effect i s).p.timeout = true ∨ AcksTimer s (effect i s) := by
  rcases (needsMode_eq_poll_iff i).1 hi with rfl | rfl | rfl
  · cases hbtn : (interlude s).p.btn with
    | true =>
      rw [effect, pollIteration_of_pressed hbtn]
      exact .inl ((levelService_eventsOnly s).keepsFlags.timeout h)
    | false => exact .inr (pollIteration_acks hbtn h)
  · exact .inl ((levelService_eventsOnly s).keepsFlags.timeout h)
  · exact .inr (timerServicePoll_acks h)

/-- In the polling mode a pending timeout stays pending or is acknowledged, RESET apart. -/
theorem exec_timeout_or_acks (hm : s.cfg.mode = .poll) (hreset : i ≠ .reset) (h : s.p.timeout = true)
    (he : exec i s = .next t) : t.p.timeout = true ∨ AcksTimer s t := by
  rcases exec_cases he with ⟨why, -, rfl⟩ | ⟨-, hr, -⟩ | ⟨hadmitted, -, rfl, -⟩
  · exact .inl h
  · exact absurd hr hreset
  · match hi : needsMode i with
    | none => exact .inl ((effect_keepsFlags hi hreset s).timeout h)
    | some .poll => exact effect_timeout_or_acks hi h
    | some .irq => exact absurd (hm.symm.trans (mode_of_admitted hadmitted hi)) nofun

/-! ### A run of the polling mode (70_reset_and_hazards.md R275, R287) -/

namespace Run

variable {ρ : Run} {n : Nat}

/-- From every position on, the button is released somewhere. -/
theorem Releases.exists_releasedAt (h : ρ.Releases) (n : Nat) : ∃ m, n ≤ m ∧ ρ.releasedAt m := by
  cases hbtn : (ρ.state n).p.btn with
  | false => exact ⟨n, Nat.le_refl n, .inl hbtn⟩
  | true => exact h n hbtn

/-- Until a command acknowledges it, a timeout stays pending. -/
theorem timeout_of_no_acks (hm : (ρ.state n).cfg.mode = .poll)
    (hreset : ∀ m, n ≤ m → ρ.instr m ≠ .reset) (hto : (ρ.state n).p.timeout = true)
    (hnone : ∀ m, n ≤ m → ¬ AcksTimer (ρ.state m) (ρ.state (m + 1))) :
    ∀ m, n ≤ m → (ρ.state m).p.timeout = true :=
  Nat.le_induction hto fun m hle hup =>
    (exec_timeout_or_acks (s := ρ.before m) (ρ.cfg_eq hle ▸ hm) (hreset m hle) hup
      (ρ.next m)).resolve_right (hnone m hle)

/-- A POLL of the run that samples the button released acknowledges a pending timeout. -/
theorem acks_of_takes_poll (htaken : ρ.takes .poll n) (hbtn : (interlude (ρ.before n)).p.btn = false)
    (hto : (ρ.state n).p.timeout = true) : AcksTimer (ρ.state n) (ρ.state (n + 1)) := by
  obtain ⟨hinstr, hadmitted⟩ := htaken
  have hnext : exec (ρ.instr n) (ρ.before n) = .next (ρ.state (n + 1)) := ρ.next n
  rw [hinstr, exec_admitted (s := ρ.before n) hadmitted] at hnext
  injection hnext with hnext
  rw [← hnext]
  exact pollIteration_acks (s := ρ.before n) hbtn hto

end Run

end Sys2Proof.Machine

open Sys2Proof Sys2Proof.Machine

/-- Settles O58: a timeout that nothing acknowledges is still pending at the POLL that samples the button
released, and that POLL acknowledges it. -/
theorem releasedRunServesTimeout : Obligations.ReleasedRunServesTimeout := by
  intro ρ n hm hreleases hpoll hreset hto
  by_contra hnone
  have hnoAcks : ∀ k, n ≤ k → ¬ AcksTimer (ρ.state k) (ρ.state (k + 1)) :=
    fun k hle ⟨more, htrace, hmem⟩ => hnone ⟨k, more, hle, htrace, hmem⟩
  obtain ⟨m, hnm, hreleased⟩ := hreleases.exists_releasedAt n
  obtain ⟨k, hmk, htaken, hbtn⟩ := hpoll m hnm hreleased
  have hnk := hnm.trans hmk
  exact hnoAcks k hnk
    (Run.acks_of_takes_poll htaken hbtn (Run.timeout_of_no_acks hm hreset hto hnoAcks k hnk))
end

section
/-! PROOF. Events between a read and its acknowledgement or sample (O50). -/

namespace Sys2Proof.Machine

variable {s : State}

/-! ### What the races rest on -/

theorem advanceTimes_add (m n : Nat) : ∀ s, advanceTimes (m + n) s = advanceTimes n (advanceTimes m s) := by
  induction m with
  | zero => intro s; rw [Nat.zero_add]; rfl
  | succ m ih => intro s; rw [Nat.succ_add]; exact ih (advance s)

/-- The counter after a serviced timeout (43_rate_divider.md R140). -/
theorem divideAndShow_tick (s : State) : (divideAndShow s).r.tick =
    if s.r.tick.toNat + 1 = s.cfg.divisor then 0#4 else BitVec.ofNat 4 (s.r.tick.toNat + 1) := by
  rw [(divideAndShow_clock s).tick, ticked_eq]
  split
  · exact advance_tick _
  · rfl

/-- The latch holds the sampled level, whether or not it is then rendered (45_input_edge_detector.md R180). -/
theorem latchAndAdvance_latchLevel (hc : s.cfg.wellFormed = true) (lvl : Bool) :
    (latchAndAdvance lvl s).r.latchLevel = lvl := by
  cases lvl with
  | false => rfl
  | true =>
    obtain ⟨sec, min, hr, heq⟩ := advanceTimes_eq s.cfg.edgeAdv (s.setLatch true)
    rw [latchAndAdvance, if_pos rfl, heq, render_writes (by exact Config.nslots_eq hc)]
    rfl

/-! ### The edge channel, with one transition inside (70_reset_and_hazards.md R273) -/

/-- The state in which the edge channel acts on the level it sampled, with the capture bit as the three
accesses left it and no event to come. -/
def levelSampled (s : State) (level cap : Bool) : State :=
  { s with
    p := { s.p with line := level, cap := cap }
    env := []
    trace := s.trace ++ [.readCap true, .ackCap true, .readLine level] }

/-- A transition before the acknowledgement: its capture is cleared, and its level is sampled. -/
theorem edgeService_transition_before_ack {v : Bool} (he : s.env = [[], [.line v]])
    (hcap : s.p.cap = true) : edgeService s = latchAndAdvance v (levelSampled s v false) := by
  have hsample : atLevelSample s = { s with p := { s.p with line := v, cap := false }, env := [] } := by
    simp [atLevelSample, interlude, he, applyEvent]
  rw [edgeService_of_cap_set (by simp [interlude, he, hcap]), hsample]
  rfl

/-- A rising transition between the acknowledgement and the level sample: its level is sampled, and it
stays captured. -/
theorem edgeService_transition_after_ack (he : s.env = [[], [], [.line true]]) (hcap : s.p.cap = true)
    (hline : s.p.line = false) (hpol : s.cfg.edgePolarity ≠ .fall) :
    edgeService s = latchAndAdvance true (levelSampled s true true) := by
  have hcaptured : captures s.cfg.edgePolarity false true = true := by
    cases hp : s.cfg.edgePolarity with
    | any | rise => rfl
    | fall => exact absurd hp hpol
  have hsample : atLevelSample s =
      { s with p := { s.p with line := true, cap := true }, env := [] } := by
    simp [atLevelSample, interlude, he, applyEvent, hline, hcaptured]
  rw [edgeService_of_cap_set (by simp [interlude, he, hcap]), hsample]
  rfl

/-- What that service leaves for the next one: the transition captured and its level in the latch, after one
advance group. -/
theorem edgeService_leaves_transition (hc : s.cfg.wellFormed = true)
    (he : s.env = [[], [], [.line true]]) (hcap : s.p.cap = true) (hline : s.p.line = false)
    (hpol : s.cfg.edgePolarity ≠ .fall) :
    (edgeService s).env = [] ∧ (edgeService s).p = { s.p with line := true, cap := true } ∧
      (edgeService s).r.latchLevel = true ∧
      SameClock (advanceTimes s.cfg.edgeAdv s) (edgeService s) := by
  rw [edgeService_transition_after_ack he hcap hline hpol]
  have hsame : SameClock s (levelSampled s true true) := .of_eq rfl rfl
  obtain ⟨henv, hp⟩ := (latchAndAdvance_eventsOnly true (levelSampled s true true)).quiet rfl
  exact ⟨henv, hp, latchAndAdvance_latchLevel (by exact hc) true,
    (hsame.advanceTimes _).trans (latchAndAdvance_clock true (levelSampled s true true))⟩

end Sys2Proof.Machine

open Sys2Proof Sys2Proof.Machine

/-- Settles O50: the acknowledgement clears what came before it, and a transition after it is sampled now
and again by the next service. -/
theorem readThenAcknowledgeRaces : Obligations.ReadThenAcknowledgeRaces := by
  refine ⟨fun s hc hb hm hto he => ?_, fun s v hc hb hm hcap _ he => ?_,
    fun s hc hb hm hpol hcap hline he => ?_⟩
  · refine ⟨_, exec_timersvcPoll hc hb hm, ?_⟩
    rw [timerServicePoll_eq]
    simp only [interlude, he, List.headD_cons, List.tail_cons, applyEvents_nil, hto, if_true]
    refine ⟨?_, divideAndShow_tick _⟩
    rw [((divideAndShow_eventsOnly _).quiet rfl).2]
  · refine ⟨_, exec_edgesvc hc hb hm, ?_⟩
    rw [edgeService_transition_before_ack he hcap]
    refine ⟨?_, latchAndAdvance_latchLevel (by exact hc) v⟩
    rw [((latchAndAdvance_eventsOnly v (levelSampled s v false)).quiet rfl).2]
    rfl
  · have hkept := edgeService_shell s
    obtain ⟨hte, htp, hlatch, hclock⟩ := edgeService_leaves_transition hc he hcap hline hpol
    have hcapt : (edgeService s).p.cap = true := by rw [htp]
    refine ⟨_, _, _, exec_edgesvc hc hb hm, hcapt, hlatch,
      exec_edgesvc (hkept.cfg ▸ hc) (hkept.booted.trans hb) (hkept.cfg ▸ hm), ?_,
      execAll_replicate_advance _ hc hb, ?_⟩
    · rw [(edgeService_quiet hte hcapt).2]
    · have hsecond := edgeService_clock hte hcapt
      rw [htp, if_pos rfl, hkept.cfg] at hsecond
      obtain ⟨⟨-, hsec, hmin, hhr⟩, -⟩ := (hclock.advanceTimes s.cfg.edgeAdv).trans hsecond
      rw [Nat.two_mul, advanceTimes_add]
      exact ⟨hsec, hmin, hhr⟩
end
